-- ==== Sys2Proof/Word.lean ====
section
/-! DEFINITION. The word types of the AJIT pair instructions: 8-bit bytes, 32-bit registers (rule R10),
64-bit register pairs (rule R14), and 5-bit register numbers (rule R46). -/

namespace Sys2Proof

/-- One byte of the address space (rule R30). -/
abbrev Byte := BitVec 8

/-- `XLEN` = 32 bits: a general register, an address, an instruction word (rules R4, R10, R45). -/
abbrev Word := BitVec 32

/-- `PAIRLEN` = 64 bits: the value of a register pair (rules R4, R14). -/
abbrev DWord := BitVec 64

/-- A register field of an instruction: 5 bits, "Range 32" (rules R4, R46). -/
abbrev RegNum := BitVec 5

end Sys2Proof
end

