-- ==== Sys2Proof/Config.lean ====
section
/-! DEFINITION. What an implementation fixes: the named parameters of rule R4 with their alternatives, and
the draws of rule R6 as opaque constants. The values the model takes stand in Sys2Proof/Machine/Params.lean. -/

namespace Sys2Proof

/-- `ODD_PAIR_POLICY`: what an odd register number does (rule R16, 92_eei_decisions.md D4). -/
inductive OddPairPolicy where
  | refuse
  | illegalInstruction
  | clearBit0
deriving DecidableEq, Repr

/-- `UNUSED_BITS_POLICY`: what a non-zero value in bits 12:6 does (rule R48, 92_eei_decisions.md D6). -/
inductive UnusedBitsPolicy where
  | refuse
  | illegalInstruction
  | ignore
deriving DecidableEq, Repr

/-- `ICC_UNNAMED_POLICY`: what a condition code that the source does not name for a CC instruction holds
after it (rule R22, 92_eei_decisions.md D10). -/
inductive UnnamedFlagPolicy where
  | any
  | unchanged
  | v8Like
deriving DecidableEq, Repr

/-- `SMULDCC_V`: the O (icc.V) result of SMULDCC (rule R74, 92_eei_decisions.md D11). -/
inductive SmuldccVPolicy where
  | signedOverflow
  | zero
  | any
deriving DecidableEq, Repr

/-- `SDIVD_OVF_RESULT`: the quotient written when −2^63 is divided by −1 (rule R83, 92_eei_decisions.md D13). -/
inductive SdivdOverflowPolicy where
  | any
  | saturateMax
  | wrapMin
deriving DecidableEq, Repr

/-- `Y_POLICY`: what one of the eight instructions does to the SPARC Y register (rule R23,
92_eei_decisions.md D8). -/
inductive YPolicy where
  | untouched
  | anyAfter
deriving DecidableEq, Repr

/-- The parameters of rule R4. `ILEN`, `REGFIELD`, `XLEN` and `PAIRLEN` are the widths of `Word`, `RegNum` and
`DWord`, `BYTE_ORDER` is `wordOfBytes`, and `FETCHABLE` and `PROGRAM` are the memory of a state
(notes/assumptions/1.md). -/
structure Config where
  /-- `PAIR_HIGH_EVEN`: the even register of a pair holds bits 63:32 (rule R14). -/
  pairHighEven : Bool
  /-- `ODD_PAIR_POLICY` (rule R16). -/
  oddPair : OddPairPolicy
  /-- `UNUSED_BITS_POLICY` (rule R48). -/
  unusedBits : UnusedBitsPolicy
  /-- `Y_POLICY` (rule R23): read by no instruction, since Y is no component of this machine's state. -/
  yPolicy : YPolicy
  /-- `ICC_UNNAMED_POLICY` (rule R22). -/
  iccUnnamed : UnnamedFlagPolicy
  /-- `SMULDCC_V` (rule R74). -/
  smuldccV : SmuldccVPolicy
  /-- `SDIVD_OVF_RESULT` (rule R83). -/
  sdivdOverflow : SdivdOverflowPolicy
  /-- `TT_DIV0`: trap type of division_by_zero (rule R90). -/
  ttDiv0 : BitVec 8
  /-- `TT_ILLEGAL`: trap type of illegal_instruction (rule R90). -/
  ttIllegal : BitVec 8
  /-- `ENTRY`: the initial value of pc (rule R110). -/
  entry : Word
  /-- `NWINDOWS`: the number of register windows, used by no rule (rule R13). -/
  nwindows : Nat
deriving DecidableEq, Repr

/-- The number of register windows: OPEN in rule R4, so the model takes it as an argument. It has no body, and a
claim holds whatever it is (DESIGN CHOICE, notes/assumptions/19.md; safe). -/
opaque Config.openNwindows : Nat

/-- The draw `any_1()` of rule R6: a bit under no law. It has no body, so nothing can evaluate it; it is
applied to a fresh index at each use (DESIGN CHOICE, notes/assumptions/6.md; safe). -/
opaque Config.anyFlag : Nat → Bool

/-- The draw `any_64()` of rule R6: a 64-bit value under no law, like `Config.anyFlag`
(DESIGN CHOICE, notes/assumptions/6.md; safe). -/
opaque Config.anyDWord : Nat → DWord

end Sys2Proof
end

