-- ==== Sys2Proof/Machine/Params.lean ====
section
/-! DEFINITION. The values of rule R4's parameters that this model takes: the column "value" of its table. -/

namespace Sys2Proof.Machine

/-- Rule R4, column "value". `ENTRY` is OPEN there and must be a multiple of 4: the model takes 0, where
SPARC V8's own reset starts (PRESUMED, notes/assumptions/4.md; unsafe for a claim that rests on the address).
`NWINDOWS` is OPEN too and stays open (notes/assumptions/19.md). -/
def params : Config where
  pairHighEven := true
  oddPair := .refuse
  unusedBits := .refuse
  yPolicy := .untouched
  iccUnnamed := .any
  smuldccV := .signedOverflow
  sdivdOverflow := .any
  ttDiv0 := 0x2A#8
  ttIllegal := 0x02#8
  entry := 0#32
  nwindows := Config.openNwindows

end Sys2Proof.Machine
end

