-- ==== Sys2Proof/Syntax.lean ====
section
/-! DEFINITION. The eight instructions in scope (rule R1), one constructor for each row of
spec/opcode_table.json, and the three reasons for which the spec gives a word no meaning (rule R25). -/

namespace Sys2Proof

/-- The eight pair instructions of rule R1. Every operand is a 5-bit register number that names a
register pair (rule R52); there is no immediate form (rule R47). -/
inductive Instr where
  /-- UMULD, assembler mnemonic `umuldaj` (rules R57, R71). -/
  | umuld (rd rs1 rs2 : RegNum)
  /-- UMULDCC (rule R72). -/
  | umuldcc (rd rs1 rs2 : RegNum)
  /-- SMULD (rule R73; signed, 90_conflicts.md C1). -/
  | smuld (rd rs1 rs2 : RegNum)
  /-- SMULDCC (rule R74). -/
  | smuldcc (rd rs1 rs2 : RegNum)
  /-- UDIVD (rule R81). -/
  | udivd (rd rs1 rs2 : RegNum)
  /-- UDIVDCC (rule R82). -/
  | udivdcc (rd rs1 rs2 : RegNum)
  /-- SDIVD (rule R83). -/
  | sdivd (rd rs1 rs2 : RegNum)
  /-- SDIVDCC (rule R84). -/
  | sdivdcc (rd rs1 rs2 : RegNum)
deriving DecidableEq, Repr

/-- The destination field rd (rule R46). -/
def Instr.rd : Instr → RegNum
  | .umuld rd _ _ => rd
  | .umuldcc rd _ _ => rd
  | .smuld rd _ _ => rd
  | .smuldcc rd _ _ => rd
  | .udivd rd _ _ => rd
  | .udivdcc rd _ _ => rd
  | .sdivd rd _ _ => rd
  | .sdivdcc rd _ _ => rd

/-- The first source field rs1 (rule R46). -/
def Instr.rs1 : Instr → RegNum
  | .umuld _ rs1 _ => rs1
  | .umuldcc _ rs1 _ => rs1
  | .smuld _ rs1 _ => rs1
  | .smuldcc _ rs1 _ => rs1
  | .udivd _ rs1 _ => rs1
  | .udivdcc _ rs1 _ => rs1
  | .sdivd _ rs1 _ => rs1
  | .sdivdcc _ rs1 _ => rs1

/-- The second source field rs2 (rule R46). -/
def Instr.rs2 : Instr → RegNum
  | .umuld _ _ rs2 => rs2
  | .umuldcc _ _ rs2 => rs2
  | .smuld _ _ rs2 => rs2
  | .smuldcc _ _ rs2 => rs2
  | .udivd _ _ rs2 => rs2
  | .udivdcc _ _ rs2 => rs2
  | .sdivd _ _ rs2 => rs2
  | .sdivdcc _ _ rs2 => rs2

/-- The same instruction with each register number sent through `f`. -/
def Instr.mapRegs (f : RegNum → RegNum) : Instr → Instr
  | .umuld rd rs1 rs2 => .umuld (f rd) (f rs1) (f rs2)
  | .umuldcc rd rs1 rs2 => .umuldcc (f rd) (f rs1) (f rs2)
  | .smuld rd rs1 rs2 => .smuld (f rd) (f rs1) (f rs2)
  | .smuldcc rd rs1 rs2 => .smuldcc (f rd) (f rs1) (f rs2)
  | .udivd rd rs1 rs2 => .udivd (f rd) (f rs1) (f rs2)
  | .udivdcc rd rs1 rs2 => .udivdcc (f rd) (f rs1) (f rs2)
  | .sdivd rd rs1 rs2 => .sdivd (f rd) (f rs1) (f rs2)
  | .sdivdcc rd rs1 rs2 => .sdivdcc (f rd) (f rs1) (f rs2)

/-- Is the instruction one of the divide family (41_divide.md), which tests its divisor (rule R80)? -/
def Instr.isDivide : Instr → Bool
  | .umuld _ _ _ => false
  | .umuldcc _ _ _ => false
  | .smuld _ _ _ => false
  | .smuldcc _ _ _ => false
  | .udivd _ _ _ => true
  | .udivdcc _ _ _ => true
  | .sdivd _ _ _ => true
  | .sdivdcc _ _ _ => true

/-- Is the instruction a condition-code-setting form (rule R22)? -/
def Instr.setsIcc : Instr → Bool
  | .umuld _ _ _ => false
  | .umuldcc _ _ _ => true
  | .smuld _ _ _ => false
  | .smuldcc _ _ _ => true
  | .udivd _ _ _ => false
  | .udivdcc _ _ _ => true
  | .sdivd _ _ _ => false
  | .sdivdcc _ _ _ => true

/-- The three reasons of rule R25 for which the spec gives an instruction word no meaning (rules R51, R92). -/
inductive RefuseReason where
  /-- `odd_pair_register`: one of rd, rs1, rs2 is odd (rule R16). -/
  | oddPairRegister
  /-- `unused_bits_nonzero`: bits 12:6 are not all zero (rule R48). -/
  | unusedBitsNonzero
  /-- `not_in_scope`: the word is none of the eight patterns (rules R53, R54). -/
  | notInScope
deriving DecidableEq, Repr

end Sys2Proof
end

