-- ==== Sys2Proof/WellFormed.lean ====
section
/-! DEFINITION. Which instruction terms the spec gives a meaning: those whose three register numbers are
all even, since each names a register pair (rules R16, R52). -/

namespace Sys2Proof

/-- An even register number names a pair (rules R14, R16). -/
def evenReg (r : RegNum) : Bool := !r.getLsbD 0

/-- All three register numbers are even (rule R16: an odd one leaves the instruction without a meaning). -/
def Instr.wellFormed (i : Instr) : Bool := evenReg i.rd && evenReg i.rs1 && evenReg i.rs2

end Sys2Proof
end

