-- ==== Sys2Proof/Decode.lean ====
section
/-! DEFINITION. The decoder of rule R51, total on 32-bit words, its instruction bytes (rule R32), and after
it the encoder: the layout of rule R46, and the assembler's macros of rule R50 that build the same word. -/

namespace Sys2Proof

/-! ## The fields of format F4 (rule R46) -/

/-- op, bits 31:30. -/
def opField (w : Word) : BitVec 2 := w.extractLsb' 30 2

/-- rd, bits 29:25. -/
def rdField (w : Word) : RegNum := w.extractLsb' 25 5

/-- op3, bits 24:19. -/
def op3Field (w : Word) : BitVec 6 := w.extractLsb' 19 6

/-- rs1, bits 18:14. -/
def rs1Field (w : Word) : RegNum := w.extractLsb' 14 5

/-- The i bit, bit 13. -/
def iField (w : Word) : BitVec 1 := w.extractLsb' 13 1

/-- The unused bits, 12:6. -/
def unusedField (w : Word) : BitVec 7 := w.extractLsb' 6 7

/-- The AJIT bit, bit 5. -/
def ajitField (w : Word) : BitVec 1 := w.extractLsb' 5 1

/-- rs2, bits 4:0. -/
def rs2Field (w : Word) : RegNum := w.extractLsb' 0 5

/-! ## Decoding -/

/-- What the decoder answers (rule R51): an instruction, a refusal by name, or, under the non-default
policies only, the illegal_instruction exception (rule R91). -/
inductive DecodeResult where
  | instr (i : Instr)
  | refuse (reason : RefuseReason)
  | illegal
deriving DecidableEq, Repr

/-- The opcode map of rule R49: op3 selects the instruction; none of the eight values, none. -/
def instrOfOp3 (op3 : BitVec 6) (rd rs1 rs2 : RegNum) : Option Instr :=
  if op3 = 0x0A#6 then some (.umuld rd rs1 rs2)
  else if op3 = 0x1A#6 then some (.umuldcc rd rs1 rs2)
  else if op3 = 0x0B#6 then some (.smuld rd rs1 rs2)
  else if op3 = 0x1B#6 then some (.smuldcc rd rs1 rs2)
  else if op3 = 0x0E#6 then some (.udivd rd rs1 rs2)
  else if op3 = 0x1E#6 then some (.udivdcc rd rs1 rs2)
  else if op3 = 0x0F#6 then some (.sdivd rd rs1 rs2)
  else if op3 = 0x1F#6 then some (.sdivdcc rd rs1 rs2)
  else none

/-- The pattern test of rule R51: op = 10, i = 0, AJIT bit = 1, op3 one of the eight. Whatever the unused
bits and the parities of the register numbers are. -/
def matchInstr (w : Word) : Option Instr :=
  if opField w = 0b10#2 ∧ iField w = 0#1 ∧ ajitField w = 1#1 then
    instrOfOp3 (op3Field w) (rdField w) (rs1Field w) (rs2Field w)
  else none

/-- A register number with its bit 0 cleared (`ODD_PAIR_POLICY = clear_bit0`, rule R16). -/
def clearBit0 (r : RegNum) : RegNum := r &&& 0b11110#5

/-- The test for odd register numbers (rules R16, R51). -/
def decodeOperands (odd : OddPairPolicy) (i : Instr) : DecodeResult :=
  if i.wellFormed then .instr i
  else match odd with
    | .refuse => .refuse .oddPairRegister
    | .illegalInstruction => .illegal
    | .clearBit0 => .instr (i.mapRegs clearBit0)

/-- The decoder of rule R51 under given policies: the pattern, then the unused bits (rule R48), then the
register numbers (rule R16). -/
def decodeWith (odd : OddPairPolicy) (unused : UnusedBitsPolicy) (w : Word) : DecodeResult :=
  match matchInstr w with
  | none => .refuse .notInScope
  | some i =>
    if unusedField w = 0#7 then decodeOperands odd i
    else match unused with
      | .refuse => .refuse .unusedBitsNonzero
      | .illegalInstruction => .illegal
      | .ignore => decodeOperands odd i

/-- The decoder of rule R51 under the policies of rule R4. -/
def decode (w : Word) : DecodeResult :=
  decodeWith Machine.params.oddPair Machine.params.unusedBits w

/-! ## The bytes of a word (rule R32: big-endian, the lowest address holds bits 31:24) -/

/-- The word whose bytes at ascending addresses are `b0 b1 b2 b3`. -/
def wordOfBytes (b0 b1 b2 b3 : Byte) : Word := b0 ++ b1 ++ b2 ++ b3

/-- The byte of `w` that lies `k` addresses above its lowest one, k = 0 .. 3. -/
def byteOfWord (w : Word) (k : Nat) : Byte := w.extractLsb' (8 * (3 - k)) 8

/-- The decoder on the four bytes that lie at ascending addresses; total on any bytes. -/
def decodeBytes (b0 b1 b2 b3 : Byte) : DecodeResult := decode (wordOfBytes b0 b1 b2 b3)

/-- An instruction given as a number whose bits above `nbits` are zero, as one instruction word. -/
def tableWord (nbits w : Nat) : Word := BitVec.ofNat 32 (w % 2 ^ nbits)

/-- The instruction the decoder reads from an instruction whose bits are `w`, laid out as the hardware
stores it. Every instruction is 32 bits (rule R45), so a longer one is none. -/
def decodeTableWord (nbits w : Nat) : Option Instr :=
  if nbits ≤ 32 then
    let v := tableWord nbits w
    match decodeBytes (byteOfWord v 0) (byteOfWord v 1) (byteOfWord v 2) (byteOfWord v 3) with
    | .instr i => some i
    | .refuse _ => none
    | .illegal => none
  else none

/-! ## Encoding -/

/-- The op3 value of each instruction (rule R49). -/
def op3Of : Instr → BitVec 6
  | .umuld _ _ _ => 0b001010#6
  | .umuldcc _ _ _ => 0b011010#6
  | .smuld _ _ _ => 0b001011#6
  | .smuldcc _ _ _ => 0b011011#6
  | .udivd _ _ _ => 0b001110#6
  | .udivdcc _ _ _ => 0b011110#6
  | .sdivd _ _ _ => 0b001111#6
  | .sdivdcc _ _ _ => 0b011111#6

/-- Format F4, most significant field first: op, rd, op3, rs1, i, unused, AJIT bit, rs2 (rule R46). -/
def layoutF4 (rd : RegNum) (op3 : BitVec 6) (rs1 rs2 : RegNum) : Word :=
  0b10#2 ++ rd ++ op3 ++ rs1 ++ 0#1 ++ 0#7 ++ 1#1 ++ rs2

/-- The word of an instruction (rules R46, R49). -/
def encode (i : Instr) : Word := layoutF4 i.rd (op3Of i) i.rs1 i.rs2

/-- The assembler's `OP(x)`: `((x) & 0x3) << 30` (rule R50). -/
def asmOP (x : Word) : Word := (x &&& 0x3#32) <<< 30

/-- The assembler's `OP3(y)`: `((y) & 0x3f) << 19` (rule R50). -/
def asmOP3 (y : Word) : Word := (y &&& 0x3F#32) <<< 19

/-- The assembler's `F3I(z)`: `((z) & 0x1) << 13` (rule R50). -/
def asmF3I (z : Word) : Word := (z &&& 0x1#32) <<< 13

/-- The assembler's `OP_AJIT_BIT(a)`: `((a) & 0x1) << 5` (rule R50). -/
def asmAjitBit (a : Word) : Word := (a &&& 0x1#32) <<< 5

/-- The assembler's `F4(x, y, z)` (rule R50). -/
def asmF4 (x y z : Word) : Word := asmOP x ||| asmOP3 y ||| asmF3I z ||| asmAjitBit 1#32

/-- `match(instr) = F4(0x2, op3(instr), 0x0)` (rule R50). -/
def matchWord (i : Instr) : Word := asmF4 0x2#32 ((op3Of i).setWidth 32) 0x0#32

/-- The decode mask of rule R50: op, op3, i, unused, AJIT bit. -/
def decodeMask : Word := 0xC1F83FE0#32

/-- The mask of the bits that the source fixes outright, without the unused bits (rule R50). -/
def looseMask : Word := 0xC1F82020#32

end Sys2Proof
end

