-- ==== Sys2Proof/Machine/State.lean ====
section
/-! DEFINITION. The state of the fragment machine (10_state.md), the reasons for which it stops, and the
state in which a run starts (rule R110). -/

namespace Sys2Proof.Machine

/-- The integer condition codes (rule R21): four flags of one bit each. The source's O is `v` (rule R22). -/
structure Icc where
  n : Bool
  z : Bool
  v : Bool
  c : Bool
deriving DecidableEq, Repr

/-- The run status of rule R25. -/
inductive RunStatus where
  | running
  /-- Stopped by the trap of type `tt`; never a final state, with no successor (rules R25, R96). -/
  | trapped (tt : BitVec 8)
  /-- Stopped at a word the spec gives no meaning (rules R25, R92). -/
  | refused (reason : RefuseReason)
deriving DecidableEq, Repr

/-- Memory as (address, byte) cells, addresses strictly rising. The listed addresses are `FETCHABLE` and their
bytes `PROGRAM` (rules R30, R35); an address not listed has no content. -/
abbrev Memory := List Host.Cell

/-- The state tuple of 10_state.md, with the program text beside it so that a state can be run
(notes/assumptions/1.md), and the model's own draw counter (notes/assumptions/6.md). -/
structure State where
  /-- Registers 1 to 31, register r at index r − 1; register 0 is no storage (rules R10, R11). -/
  gpr : Vector Word 31
  /-- The condition codes N, Z, V, C (rule R21). -/
  icc : Icc
  /-- The program counter (rule R18). -/
  pc : Word
  /-- The next program counter (rule R18). -/
  npc : Word
  /-- The run status (rule R25). -/
  status : RunStatus
  /-- `PROGRAM` on `FETCHABLE` (rules R30, R41). -/
  mem : Memory
  /-- The model's own counter of draws taken: the index of the next one (rule R6, `any_N()`). -/
  draws : Nat
deriving DecidableEq, Repr

/-- Why a state has no step although the spec has a rule for where it stands. -/
inductive Fault where
  /-- Raised by `step`: the fetch at pc is not admitted, so the machine is stuck, neither in a final state
  nor in a trap (rules R35, R93). Safe: the hardware would trap or go on. -/
  | fetchNotAdmitted
  /-- Raised by `step`: the state is `Trapped(tt)`, which has no successor (rules R25, R96, R98). Safe: the
  hardware would enter a handler, which no rule describes. -/
  | stoppedByTrap (tt : BitVec 8)
deriving DecidableEq, Repr

/-- Why the spec gives a step no meaning. -/
inductive Refusal where
  /-- Raised by `exec` for an instruction without a meaning; no arm does. Safe. -/
  | notModelled (mnemonic : String)
  /-- Raised by `step` when the decoder refuses the word at pc or the run is already marked refused, and by
  a meaning given an odd register number (rules R16, R51, R92). Safe: it says nothing of the hardware. -/
  | noMeaning (reason : RefuseReason)
deriving DecidableEq, Repr

/-- The three outcomes of one instruction (rule R7). -/
abbrev Result := Host.Outcome State Fault Refusal

/-- The launch state of rule R110: `status`, `pc` and `npc` as it says, from `ENTRY` of the parameters, and no
program placed. Rule R110 leaves the registers and the condition codes unspecified; the model names zero
for them (DESIGN CHOICE, notes/assumptions/2.md and 3.md; unsafe for a claim that rests on a zero). -/
def State.reset : State where
  gpr := Vector.replicate 31 0#32
  icc := { n := false, z := false, v := false, c := false }
  pc := params.entry
  npc := params.entry + 4#32
  status := .running
  mem := []
  draws := 0

end Sys2Proof.Machine
end

