-- ==== Sys2Proof/Machine/Ops.lean ====
section
/-! DEFINITION. The named operations over registers, memory, the draws and the program counter, and taking
an exception. -/

namespace Sys2Proof.Machine

/-! ## General registers (rules R10, R11) -/

/-- Where register `r` stands in `State.gpr`; register 0 stands nowhere and is never looked up. -/
def regIndex (r : RegNum) : Fin 31 := ⟨r.toNat - 1, by have := r.isLt; omega⟩

/-- `x[r]`: register 0 reads as zero (rule R11). -/
def State.readReg (s : State) (r : RegNum) : Word :=
  if r = 0#5 then 0#32 else s.gpr[regIndex r]

/-- `x[r] <- v`: a write to register 0 has no effect (rule R11). -/
def State.writeReg (s : State) (r : RegNum) (v : Word) : State :=
  if r = 0#5 then s else { s with gpr := s.gpr.set (regIndex r) v }

/-! ## Memory (20_memory.md): read by the fetch alone; written only by the loader outside the machine -/

/-- The byte at address `a`, none where the address is not in `FETCHABLE` (rule R30). -/
def Memory.read : Memory → Nat → Option Byte
  | [], _ => none
  | (b, v) :: m, a => if a = b then some v else Memory.read m a

/-- `m` with byte `v` at address `a`, the addresses kept strictly rising. -/
def Memory.write : Memory → Nat → Byte → Memory
  | [], a, v => [(a, v)]
  | (b, u) :: m, a, v =>
    if a < b then (a, v) :: (b, u) :: m
    else if a = b then (a, v) :: m
    else (b, u) :: Memory.write m a v

/-- The canonical form: addresses strictly rising, all in the address space of 2^32 bytes (rule R30). No
entry can equal what an unlisted address reads as, which is no value. -/
abbrev Memory.wf (m : Memory) : Prop :=
  m.Pairwise (fun p q => p.1 < q.1) ∧ ∀ p ∈ m, p.1 < 2 ^ 32

/-- `MemRead(addr, 4)`: the four bytes from `addr` up, the lowest address most significant (rules R31, R32);
none where the access is not admitted, that is `addr` is no multiple of 4 or a byte is outside
`FETCHABLE` (rule R35). -/
def Memory.readWord (m : Memory) (addr : Word) : Option Word :=
  if addr.toNat % 4 = 0 then
    match Memory.read m addr.toNat, Memory.read m (addr.toNat + 1),
      Memory.read m (addr.toNat + 2), Memory.read m (addr.toNat + 3) with
    | some b0, some b1, some b2, some b3 => some (wordOfBytes b0 b1 b2 b3)
    | _, _, _, _ => none
  else none

/-- `m` with the four bytes of `w` from `addr` up, addresses modulo 2^32. No instruction stores (rule R34):
this is the loader that places `PROGRAM` before a run (rule R110). -/
def Memory.loadWord (m : Memory) (addr w : Word) : Memory :=
  Memory.write
    (Memory.write
      (Memory.write
        (Memory.write m addr.toNat (byteOfWord w 0))
        (addr + 1#32).toNat (byteOfWord w 1))
      (addr + 2#32).toNat (byteOfWord w 2))
    (addr + 3#32).toNat (byteOfWord w 3)

/-- The instruction fetch: `MemRead(pc, 4)` (rule R33). -/
def State.fetch (s : State) : Option Word := Memory.readWord s.mem s.pc

/-! ## Draws (rule R6, `any_N()`) -/

/-- How many draw indices one completed instruction passes over: one for each of N, V and C. -/
def drawsPerInstr : Nat := 3

/-- The draw for icc.N. -/
def State.drawN (s : State) : Bool := Config.anyFlag s.draws

/-- The draw for icc.V. -/
def State.drawV (s : State) : Bool := Config.anyFlag (s.draws + 1)

/-- The draw for icc.C. -/
def State.drawC (s : State) : Bool := Config.anyFlag (s.draws + 2)

/-- The draw for a quotient that does not fit (rule R83). -/
def State.drawQuotient (s : State) : DWord := Config.anyDWord s.draws

/-! ## The Y register (rule R23) -/

/-- What a model that embeds the eight instructions and holds Y keeps in it after one of them, under `Y_POLICY`:
its old value, or the draw `any_32()` (rule R23). Y is no component of this machine's state, so no meaning calls it. -/
def yAfter (p : YPolicy) (draw old : Word) : Word :=
  match p with
  | .untouched => old
  | .anyAfter => draw

/-! ## Sequencing and exceptions -/

/-- `pc <- npc; npc <- npc + 4` modulo 2^32 (rule R19); the draw counter moves to fresh indices. -/
def State.advance (s : State) : State :=
  { s with pc := s.npc, npc := s.npc + 4#32, draws := s.draws + drawsPerInstr }

/-- Taking an exception: `raise` sets `status <- Trapped(tt)` and changes nothing else; pc and npc still name
the trapped instruction and its successor (rules R91, R96). The fragment machine has no return from
an exception (rule R98), so none stands beside it. -/
def State.raiseTrap (s : State) (tt : BitVec 8) : State := { s with status := .trapped tt }

/-- A refusal sets `status <- Refused(reason)` and changes nothing else (rule R92). -/
def State.markRefused (s : State) (reason : RefuseReason) : State :=
  { s with status := .refused reason }

end Sys2Proof.Machine
end

