-- ==== Sys2Proof/Machine/Operands.lean ====
section
/-! DEFINITION. The one operand form of the eight instructions: an even register number that names a pair of
adjacent registers (rules R14 to R17, R52). -/

namespace Sys2Proof.Machine

/-- The pair value of an even register and the next odd one, under `PAIR_HIGH_EVEN` (rule R14). -/
def joinPair (highEven : Bool) (even odd : Word) : DWord :=
  if highEven then even ++ odd else odd ++ even

/-- What the even register of a pair takes of a 64-bit value, under `PAIR_HIGH_EVEN` (rule R15). -/
def evenHalf (highEven : Bool) (v : DWord) : Word :=
  if highEven then v.extractLsb' 32 32 else v.extractLsb' 0 32

/-- What the odd register of a pair takes of a 64-bit value, under `PAIR_HIGH_EVEN` (rule R15). -/
def oddHalf (highEven : Bool) (v : DWord) : Word :=
  if highEven then v.extractLsb' 0 32 else v.extractLsb' 32 32

/-- `pair(n)` (rule R14). -/
def State.readPair (s : State) (n : RegNum) : DWord :=
  joinPair params.pairHighEven (s.readReg n) (s.readReg (n + 1#5))

/-- `pair(n) <- v`, both halves in the same step; the half that falls to register 0 is discarded (rule R15). -/
def State.writePair (s : State) (n : RegNum) (v : DWord) : State :=
  (s.writeReg n (evenHalf params.pairHighEven v)).writeReg (n + 1#5) (oddHalf params.pairHighEven v)

/-- Operand assembly of an instruction: with three even register numbers, `k` of the two source pairs as the
state before the instruction holds them (rules R17, R52); with an odd one, no meaning (rule R16). -/
def onPairs (rd rs1 rs2 : RegNum) (s : State) (k : DWord → DWord → Result) : Result :=
  if evenReg rd ∧ evenReg rs1 ∧ evenReg rs2 then k (s.readPair rs1) (s.readPair rs2)
  else .refused (.noMeaning .oddPairRegister)

end Sys2Proof.Machine
end

