-- ==== Sys2Proof/Machine/Arith.lean ====
section
/-! DEFINITION. The 64-bit arithmetic of the two families: exact integers, narrowed at the end (rules R6,
R70, R81, R83). -/

namespace Sys2Proof.Machine

/-- `trunc_64(k)`: the 64-bit vector whose value is k modulo 2^64 (rule R6). -/
def trunc64 (k : Int) : DWord := BitVec.ofInt 64 k

/-- `trunc_64(uint(A) * uint(B))` (rules R70, R71). -/
def umul64 (a b : DWord) : DWord := trunc64 ((a.toNat : Int) * (b.toNat : Int))

/-- The exact signed product `sint_64(A) * sint_64(B)` (rule R70). -/
def signedProduct (a b : DWord) : Int := a.toInt * b.toInt

/-- `trunc_64(sint_64(A) * sint_64(B))` (rules R70, R73). -/
def smul64 (a b : DWord) : DWord := trunc64 (signedProduct a b)

/-- The exact signed product does not fit 64 bits (rule R74). -/
def smulOverflows (a b : DWord) : Bool :=
  decide (signedProduct a b < -2 ^ 63 ∨ signedProduct a b > 2 ^ 63 - 1)

/-- `trunc_64(floor(uint(A) / uint(B)))` (rule R81). -/
def udiv64 (a b : DWord) : DWord := trunc64 ((a.toNat / b.toNat : Nat) : Int)

/-- `trunc_64(rtz(a / b))`, rounded toward zero (rule R83). -/
def sdiv64 (a b : DWord) : DWord := trunc64 (a.toInt.tdiv b.toInt)

/-- The one case whose exact quotient, 2^63, does not fit: −2^63 divided by −1 (rule R83). -/
def sdivOverflows (a b : DWord) : Bool := decide (a.toInt = -2 ^ 63 ∧ b.toInt = -1)

/-- What is written for the quotient 2^63, under `SDIVD_OVF_RESULT` (rule R83). -/
def overflowQuotient (p : SdivdOverflowPolicy) (draw : DWord) : DWord :=
  match p with
  | .any => draw
  | .saturateMax => 0x7FFFFFFFFFFFFFFF#64
  | .wrapMin => 0x8000000000000000#64

/-- The quotient that SDIVD and SDIVDCC write (rules R83, R84). -/
def sdivQuotient (s : State) (a b : DWord) : DWord :=
  if sdivOverflows a b then overflowQuotient params.sdivdOverflow s.drawQuotient else sdiv64 a b

end Sys2Proof.Machine
end

