-- ==== Sys2Proof/Machine/Flags.lean ====
section
/-! DEFINITION. The condition codes after each of the four CC instructions (rules R22, R72, R74, R82, R84). -/

namespace Sys2Proof.Machine

/-- Z: the 64-bit value written is zero (92_eei_decisions.md D9). -/
def zeroFlag (v : DWord) : Bool := decide (v = 0#64)

/-- N: bit 63 of the 64-bit value written (92_eei_decisions.md D9). -/
def negFlag (v : DWord) : Bool := v.getLsbD 63

/-- A condition code the source does not name for the instruction, under `ICC_UNNAMED_POLICY`: a draw, its
old value, or what the base instruction would give (rule R22). -/
def unnamedFlag (p : UnnamedFlagPolicy) (draw old v8 : Bool) : Bool :=
  match p with
  | .any => draw
  | .unchanged => old
  | .v8Like => v8

/-- V of SMULDCC, under `SMULDCC_V` (rule R74). -/
def smuldccV (p : SmuldccVPolicy) (draw overflow : Bool) : Bool :=
  match p with
  | .signedOverflow => overflow
  | .zero => false
  | .any => draw

/-- icc after UMULDCC wrote `v`: Z named; N, V, C not (rule R72). -/
def iccUmuldcc (s : State) (v : DWord) : Icc where
  n := unnamedFlag params.iccUnnamed s.drawN s.icc.n (negFlag v)
  z := zeroFlag v
  v := unnamedFlag params.iccUnnamed s.drawV s.icc.v false
  c := unnamedFlag params.iccUnnamed s.drawC s.icc.c false

/-- icc after SMULDCC wrote `v`: Z, N, V named; C not (rule R74). -/
def iccSmuldcc (s : State) (v : DWord) (overflow : Bool) : Icc where
  n := negFlag v
  z := zeroFlag v
  v := smuldccV params.smuldccV s.drawV overflow
  c := unnamedFlag params.iccUnnamed s.drawC s.icc.c false

/-- icc after UDIVDCC wrote `v`: Z and V named, V always 0; N, C not (rule R82). -/
def iccUdivdcc (s : State) (v : DWord) : Icc where
  n := unnamedFlag params.iccUnnamed s.drawN s.icc.n (negFlag v)
  z := zeroFlag v
  v := false
  c := unnamedFlag params.iccUnnamed s.drawC s.icc.c false

/-- icc after SDIVDCC wrote `v`: Z, N, V named; C not (rule R84). -/
def iccSdivdcc (s : State) (v : DWord) (overflow : Bool) : Icc where
  n := negFlag v
  z := zeroFlag v
  v := overflow
  c := unnamedFlag params.iccUnnamed s.drawC s.icc.c false

/-- The last stage of an instruction: pair(rd) and icc written, then the advance (rules R15, R19). -/
def State.retire (s : State) (rd : RegNum) (v : DWord) (icc : Icc) : State :=
  { s.writePair rd v with icc := icc }.advance

end Sys2Proof.Machine
end

