-- ==== Sys2Proof/Machine/Divide.lean ====
section
/-! DEFINITION. The meanings of the divide family (41_divide.md). -/

namespace Sys2Proof.Machine

/-- The zero-divisor test of rule R80, on all 64 bits of the divisor pair and before any write: it raises
division_by_zero, or leaves the state `t` that the division gives. -/
def divideInto (s : State) (b : DWord) (t : State) : Result :=
  if b = 0#64 then .next (s.raiseTrap params.ttDiv0) else .next t

/-- UDIVD (rule R81). -/
def execUdivd (rd rs1 rs2 : RegNum) (s : State) : Result :=
  onPairs rd rs1 rs2 s fun a b => divideInto s b (s.retire rd (udiv64 a b) s.icc)

/-- UDIVDCC (rule R82). -/
def execUdivdcc (rd rs1 rs2 : RegNum) (s : State) : Result :=
  onPairs rd rs1 rs2 s fun a b =>
    divideInto s b (s.retire rd (udiv64 a b) (iccUdivdcc s (udiv64 a b)))

/-- SDIVD (rule R83). -/
def execSdivd (rd rs1 rs2 : RegNum) (s : State) : Result :=
  onPairs rd rs1 rs2 s fun a b => divideInto s b (s.retire rd (sdivQuotient s a b) s.icc)

/-- SDIVDCC (rule R84). Z and N follow the value written, the drawn one too. -/
def execSdivdcc (rd rs1 rs2 : RegNum) (s : State) : Result :=
  onPairs rd rs1 rs2 s fun a b =>
    divideInto s b
      (s.retire rd (sdivQuotient s a b) (iccSdivdcc s (sdivQuotient s a b) (sdivOverflows a b)))

end Sys2Proof.Machine
end

