-- ==== Sys2Proof/Machine/Multiply.lean ====
section
/-! DEFINITION. The meanings of the multiply family (40_multiply.md). None of the four traps (rule R90). -/

namespace Sys2Proof.Machine

/-- UMULD (rule R71). -/
def execUmuld (rd rs1 rs2 : RegNum) (s : State) : Result :=
  onPairs rd rs1 rs2 s fun a b => .next (s.retire rd (umul64 a b) s.icc)

/-- UMULDCC (rule R72). Z is taken from the truncated product, not from what pair(rd) reads back. -/
def execUmuldcc (rd rs1 rs2 : RegNum) (s : State) : Result :=
  onPairs rd rs1 rs2 s fun a b => .next (s.retire rd (umul64 a b) (iccUmuldcc s (umul64 a b)))

/-- SMULD (rule R73). -/
def execSmuld (rd rs1 rs2 : RegNum) (s : State) : Result :=
  onPairs rd rs1 rs2 s fun a b => .next (s.retire rd (smul64 a b) s.icc)

/-- SMULDCC (rule R74). -/
def execSmuldcc (rd rs1 rs2 : RegNum) (s : State) : Result :=
  onPairs rd rs1 rs2 s fun a b =>
    .next (s.retire rd (smul64 a b) (iccSmuldcc s (smul64 a b) (smulOverflows a b)))

end Sys2Proof.Machine
end

