-- ==== Sys2Proof/Machine/Dispatch.lean ====
section
/-! DEFINITION. `exec`: one arm for each instruction, each a direct call of its meaning. -/

namespace Sys2Proof.Machine

def exec (i : Instr) (s : State) : Host.Outcome State Fault Refusal :=
  match i with
  | .umuld rd rs1 rs2 => Sys2Proof.Machine.execUmuld rd rs1 rs2 s
  | .umuldcc rd rs1 rs2 => Sys2Proof.Machine.execUmuldcc rd rs1 rs2 s
  | .smuld rd rs1 rs2 => Sys2Proof.Machine.execSmuld rd rs1 rs2 s
  | .smuldcc rd rs1 rs2 => Sys2Proof.Machine.execSmuldcc rd rs1 rs2 s
  | .udivd rd rs1 rs2 => Sys2Proof.Machine.execUdivd rd rs1 rs2 s
  | .udivdcc rd rs1 rs2 => Sys2Proof.Machine.execUdivdcc rd rs1 rs2 s
  | .sdivd rd rs1 rs2 => Sys2Proof.Machine.execSdivd rd rs1 rs2 s
  | .sdivdcc rd rs1 rs2 => Sys2Proof.Machine.execSdivdcc rd rs1 rs2 s

end Sys2Proof.Machine
end

