-- ==== Sys2Proof/Machine/Step.lean ====
section
/-! DEFINITION. One step of the machine: fetch admission, decoding, the instruction, in that order (rule R95). -/

namespace Sys2Proof.Machine

/-- One step (rules R7, R33, R95). A state whose run is over has no step (rule R25); a fetch that is not
admitted has none either (rule R35); a word the decoder refuses is refused (rule R92; the mark it leaves
in the state is `State.runStep`, notes/assumptions/7.md). -/
def step (s : State) : Host.Outcome State Fault Refusal :=
  match s.status with
  | .trapped tt => .fault (.stoppedByTrap tt)
  | .refused reason => .refused (.noMeaning reason)
  | .running =>
    match s.fetch with
    | none => .fault .fetchNotAdmitted
    | some w =>
      match decode w with
      | .instr i => exec i s
      | .refuse reason => .refused (.noMeaning reason)
      | .illegal => .next (s.raiseTrap params.ttIllegal)

/-- `s` with the instruction word `w` at pc and the run status Running, which is all that the fetch of rule R33
takes beside an aligned pc. It stands for the loader outside the machine (notes/assumptions/5.md). -/
def State.withFetchWord (s : State) (nbits w : Nat) : State :=
  { s with mem := Memory.loadWord s.mem s.pc (tableWord nbits w), status := .running }

end Sys2Proof.Machine
end

