-- ==== Sys2Proof/Machine/Assembly.lean ====
section
/-! DEFINITION. The assembler syntax of the eight instructions (rules R12, R56, R57), as text and as the
words of a line: a mnemonic and three register operands, sources first and destination last. -/

namespace Sys2Proof.Machine

/-- The mnemonic the implemented assembler accepts; UMULD's is `umuldaj` (rule R57). -/
def mnemonic : Instr → String
  | .umuld _ _ _ => "umuldaj"
  | .umuldcc _ _ _ => "umuldcc"
  | .smuld _ _ _ => "smuld"
  | .smuldcc _ _ _ => "smuldcc"
  | .udivd _ _ _ => "udivd"
  | .udivdcc _ _ _ => "udivdcc"
  | .sdivd _ _ _ => "sdivd"
  | .sdivdcc _ _ _ => "sdivdcc"

/-- The names of registers 0 to 31: globals, outs, locals, ins (rule R12). -/
def bankNames : List String :=
  ["%g0", "%g1", "%g2", "%g3", "%g4", "%g5", "%g6", "%g7"] ++
  ["%o0", "%o1", "%o2", "%o3", "%o4", "%o5", "%o6", "%o7"] ++
  ["%l0", "%l1", "%l2", "%l3", "%l4", "%l5", "%l6", "%l7"] ++
  ["%i0", "%i1", "%i2", "%i3", "%i4", "%i5", "%i6", "%i7"]

/-- The names `%r0` to `%r31` of the same registers (rule R12). -/
def plainNames : List String :=
  ["%r0", "%r1", "%r2", "%r3", "%r4", "%r5", "%r6", "%r7"] ++
  ["%r8", "%r9", "%r10", "%r11", "%r12", "%r13", "%r14", "%r15"] ++
  ["%r16", "%r17", "%r18", "%r19", "%r20", "%r21", "%r22", "%r23"] ++
  ["%r24", "%r25", "%r26", "%r27", "%r28", "%r29", "%r30", "%r31"]

/-- The name the model writes a register with (DESIGN CHOICE, notes/assumptions/12.md; safe). -/
def regName (r : RegNum) : String := bankNames.getD r.toNat ""

/-- The register a name stands for: a bank name, `%r0` to `%r31`, `%sp` or `%fp` (rule R12). -/
def regOfName (name : String) : Option RegNum :=
  match bankNames.idxOf? name with
  | some k => some (BitVec.ofNat 5 k)
  | none =>
    match plainNames.idxOf? name with
    | some k => some (BitVec.ofNat 5 k)
    | none => if name = "%sp" then some 14#5 else if name = "%fp" then some 30#5 else none

/-- The words of an instruction's line: `mnemonic SrcReg1 SrcReg2 DestReg`, where SrcReg1 is rs1, SrcReg2 is
rs2 and DestReg is rd (rule R56). -/
def asmWords (i : Instr) : List String := [mnemonic i, regName i.rs1, regName i.rs2, regName i.rd]

/-- An instruction's line as text (rule R56). -/
def asmText (i : Instr) : String :=
  mnemonic i ++ " " ++ regName i.rs1 ++ ", " ++ regName i.rs2 ++ ", " ++ regName i.rd

/-- The instruction a mnemonic makes of three register numbers; `umuld` is no mnemonic of it (rule R57). -/
def instrOfMnemonic (m : String) (rd rs1 rs2 : RegNum) : Option Instr :=
  if m = "umuldaj" then some (.umuld rd rs1 rs2)
  else if m = "umuldcc" then some (.umuldcc rd rs1 rs2)
  else if m = "smuld" then some (.smuld rd rs1 rs2)
  else if m = "smuldcc" then some (.smuldcc rd rs1 rs2)
  else if m = "udivd" then some (.udivd rd rs1 rs2)
  else if m = "udivdcc" then some (.udivdcc rd rs1 rs2)
  else if m = "sdivd" then some (.sdivd rd rs1 rs2)
  else if m = "sdivdcc" then some (.sdivdcc rd rs1 rs2)
  else none

/-- The instruction the words of a line stand for (rule R56). Whether the assembler rejects an odd register is
not in the source; the answer is the instruction as written, which may be ill-formed. -/
def instrOfAsm : List String → Option Instr
  | [m, src1, src2, dest] =>
    match regOfName src1, regOfName src2, regOfName dest with
    | some rs1, some rs2, some rd => instrOfMnemonic m rd rs1 rs2
    | _, _, _ => none
  | _ => none

end Sys2Proof.Machine
end

