-- ==== Sys2Proof/Machine/Run.lean ====
section
/-! DEFINITION. The run of the machine on the state tuple of 10_state.md, where the run status records how a
run ended (rules R25, R92). -/

namespace Sys2Proof.Machine

/-- What the state holds after one step, the run status among it: the next state; on a refusal the mark
`Refused(reason)` and nothing else changed (rule R92); on a fault, that is where no step exists, the same
state (rules R25, R35). -/
def State.runStep (s : State) : State :=
  match step s with
  | .next t => t
  | .fault _ => s
  | .refused (.noMeaning reason) => s.markRefused reason
  | .refused _ => s

/-- The state after `n` steps. -/
def State.runFor (s : State) : Nat → State
  | 0 => s
  | n + 1 => s.runStep.runFor n

end Sys2Proof.Machine
end

