-- ==== Sys2Proof/Safety.lean ====
section
/-! DEFINITION. The terms that claims about the machine use: the launch state, the invariant of a run, the end of a
run, and what an instruction changes and leaves. -/

namespace Sys2Proof.Machine

/-- The launch state of rule R110 for an entry address: any registers, any condition codes, any program. It holds
the premise `P_seq` of rule R111; `P_text` holds of every run, since no step changes the memory. -/
def State.LaunchedAt (s : State) (entry : Word) : Prop :=
  entry.toNat % 4 = 0 ∧ s.pc = entry ∧ s.npc = entry + 4#32 ∧ s.status = .running ∧ s.mem.wf

/-- The trap types a run can stop with: division_by_zero alone, since no rule raises illegal_instruction under
the default policies (rule R90). -/
def RunStatus.legal : RunStatus → Bool
  | .running => true
  | .trapped tt => tt == 0x2A#8
  | .refused _ => true

/-- What holds in every state of a run: pc and npc are multiples of 4 (rule R20), npc = pc + 4 (rule R19), the
memory keeps its canonical form, and the run status is a legal one (rule R90). -/
def State.Inv (s : State) : Prop :=
  s.pc.toNat % 4 = 0 ∧ s.npc.toNat % 4 = 0 ∧ s.npc = s.pc + 4#32 ∧ s.mem.wf ∧ s.status.legal = true

/-- A run of a program of `k` instructions at `entry` is over, successfully (rule R112). -/
def State.OverSuccessfully (s : State) (entry : Word) (k : Nat) : Prop :=
  s.status = .running ∧ s.pc = entry + BitVec.ofNat 32 (4 * k)

/-- The byte at address `a`, where it has content (rule R30). -/
def State.readByte (s : State) (a : Nat) : Option Byte := Memory.read s.mem a

/-- pair(rd) of `t` holds `v` as rule R15 writes it: the even register the high half, the odd one the low half,
and register 0, which discards its half, still zero. -/
def State.HoldsPair (t : State) (rd : RegNum) (v : DWord) : Prop :=
  (rd ≠ 0#5 → t.readReg rd = v.extractLsb' 32 32) ∧
  t.readReg (rd + 1#5) = v.extractLsb' 0 32 ∧
  t.readReg 0#5 = 0#32

/-- Nothing but pair(rd), icc, pc and npc (and the model's own draw counter) differs between `s` and `t`: every
other register, the run status and every byte of memory are the same (rule R17). -/
def State.SameOutsidePair (s t : State) (rd : RegNum) : Prop :=
  (∀ r : RegNum, r ≠ rd → r ≠ rd + 1#5 → t.readReg r = s.readReg r) ∧
  t.status = s.status ∧
  ∀ a : Nat, t.readByte a = s.readByte a

/-- `pc <- npc; npc <- npc + 4` modulo 2^32 (rule R19). -/
def State.Advanced (s t : State) : Prop := t.pc = s.npc ∧ t.npc = s.npc + 4#32

/-- The 64-bit value of registers n and n + 1, the lower-numbered one in the high half (rule R14). -/
def State.pairValue (s : State) (n : RegNum) : DWord := s.readReg n ++ s.readReg (n + 1#5)

/-- `t` is what an instruction that completes with `v` for pair(rd) makes of `s`, but for icc and the draw
counter, which are stated beside it. -/
def State.Completed (s t : State) (rd : RegNum) (v : DWord) : Prop :=
  t.HoldsPair rd v ∧ s.SameOutsidePair t rd ∧ s.Advanced t

/-- The instruction's word is `fixed | rd<<25 | rs1<<14 | rs2`, and that word decodes to it (rules R50, R51). -/
def EncodedAs (i : Instr) (fixed : Word) : Prop :=
  encode i = fixed ||| (i.rd.setWidth 32 <<< 25) ||| (i.rs1.setWidth 32 <<< 14) ||| i.rs2.setWidth 32 ∧
  decode (encode i) = .instr i

/-- The instruction's line is `name SrcReg1, SrcReg2, DestReg` (rule R56). -/
def WrittenAs (i : Instr) (name : String) : Prop :=
  asmWords i = [name, regName i.rs1, regName i.rs2, regName i.rd]

end Sys2Proof.Machine
end

