-- ==== Sys2Proof/Certificates/Slice0/Obligations.lean ====
section
/-! DEFINITION. The statements about the machine, for the provers. Each docstring names the rule of spec/ it
formalises. A rule that rests on a decision of the spec (92_eei_decisions.md) is the spec's own rule and is
stated as such; what rests on a choice of this model names its log entry. -/

open Sys2Proof Sys2Proof.Machine

/-! ## Encoding -/

/-- Decode and encode agree on every well-formed instruction of the table (30_encoding.md sections 2 and 3):
no operand bit is dropped. -/
def Obligations.DecodeOfEncodeIsTheInstruction : Prop :=
  ∀ i : Instr, i.wellFormed = true → decode (encode i) = .instr i

/-- The other direction: a word that the decoder accepts is the one encoding of a well-formed instruction, so no
two words share a meaning (30_encoding.md sections 2 and 3). -/
def Obligations.AcceptedWordIsItsEncoding : Prop :=
  ∀ (w : Word) (i : Instr), decode w = .instr i → i.wellFormed = true ∧ encode i = w

/-- Rule R55: how the spec sorts the words, by masks of its own, and that 32768 of them are defined. 0xC1F82020
masks the fixed bits, 0x1FC0 the unused ones, 0x02004001 the low bits of rd, rs1 and rs2. The four
clauses exclude each other and leave no word out, so no word raises illegal_instruction. -/
def Obligations.EveryWordIsSorted : Prop :=
  (∀ w : Word,
    if w &&& 0xC1F82020#32 ∈ [0x80500020#32, 0x80D00020#32, 0x80580020#32, 0x80D80020#32,
        0x80700020#32, 0x80F00020#32, 0x80780020#32, 0x80F80020#32] then
      if w &&& 0x1FC0#32 ≠ 0#32 then decode w = .refuse .unusedBitsNonzero
      else if w &&& 0x02004001#32 ≠ 0#32 then decode w = .refuse .oddPairRegister
      else ∃ i : Instr, i.wellFormed = true ∧ decode w = .instr i
    else decode w = .refuse .notInScope) ∧
  Set.ncard {w : Word | ∃ i : Instr, decode w = .instr i} = 32768

/-- Rule R47: the fixed bits, in every word an instruction is encoded as and in every word that decodes to one;
bit 13 is never set, so there is no immediate form. -/
def Obligations.FixedBitsOfEveryInstruction : Prop :=
  (∀ i : Instr, (encode i).extractLsb' 30 2 = 0b10#2 ∧ (encode i).getLsbD 13 = false ∧
    (encode i).getLsbD 5 = true) ∧
  ∀ (w : Word) (i : Instr), decode w = .instr i →
    w.extractLsb' 30 2 = 0b10#2 ∧ w.getLsbD 13 = false ∧ w.getLsbD 5 = true

/-- 30_encoding.md section 2: the op3 of each instruction, and what the spec marks as derived there: the fixed bits
as a word (the table's match, under the decode mask) and the structure of op3: bits 5, 3 and 1 constant, bit 4
the CC form, bit 2 the divide family, bit 0 the signed forms. -/
def Obligations.Op3SelectsTheInstruction : Prop :=
  (∀ rd rs1 rs2 : RegNum,
    encode (.umuld rd rs1 rs2) &&& 0xC1F83FE0#32 = 0x80500020#32 ∧
    encode (.umuldcc rd rs1 rs2) &&& 0xC1F83FE0#32 = 0x80D00020#32 ∧
    encode (.smuld rd rs1 rs2) &&& 0xC1F83FE0#32 = 0x80580020#32 ∧
    encode (.smuldcc rd rs1 rs2) &&& 0xC1F83FE0#32 = 0x80D80020#32 ∧
    encode (.udivd rd rs1 rs2) &&& 0xC1F83FE0#32 = 0x80700020#32 ∧
    encode (.udivdcc rd rs1 rs2) &&& 0xC1F83FE0#32 = 0x80F00020#32 ∧
    encode (.sdivd rd rs1 rs2) &&& 0xC1F83FE0#32 = 0x80780020#32 ∧
    encode (.sdivdcc rd rs1 rs2) &&& 0xC1F83FE0#32 = 0x80F80020#32 ∧
    (encode (.umuld rd rs1 rs2)).extractLsb' 19 6 = 0x0A#6 ∧
    (encode (.umuldcc rd rs1 rs2)).extractLsb' 19 6 = 0x1A#6 ∧
    (encode (.smuld rd rs1 rs2)).extractLsb' 19 6 = 0x0B#6 ∧
    (encode (.smuldcc rd rs1 rs2)).extractLsb' 19 6 = 0x1B#6 ∧
    (encode (.udivd rd rs1 rs2)).extractLsb' 19 6 = 0x0E#6 ∧
    (encode (.udivdcc rd rs1 rs2)).extractLsb' 19 6 = 0x1E#6 ∧
    (encode (.sdivd rd rs1 rs2)).extractLsb' 19 6 = 0x0F#6 ∧
    (encode (.sdivdcc rd rs1 rs2)).extractLsb' 19 6 = 0x1F#6) ∧
  ∀ (w : Word) (i : Instr), decode w = .instr i →
    w &&& 0xC1F83FE0#32 = encode i &&& 0xC1F83FE0#32 ∧
    w.getLsbD 24 = false ∧ w.getLsbD 22 = true ∧ w.getLsbD 20 = true ∧
    w.getLsbD 23 = i.setsIcc ∧ w.getLsbD 21 = i.isDivide ∧
    w.getLsbD 19 = match i with
      | .umuld _ _ _ => false
      | .umuldcc _ _ _ => false
      | .smuld _ _ _ => true
      | .smuldcc _ _ _ => true
      | .udivd _ _ _ => false
      | .udivdcc _ _ _ => false
      | .sdivd _ _ _ => true
      | .sdivdcc _ _ _ => true

/-- The word the assembler's macros build (30_encoding.md section 2, R50) is the layout of rule R46, and a
well-formed instruction is read from exactly the words that have its match word under the mask and its
register numbers. -/
def Obligations.MacrosBuildTheLayout : Prop :=
  (∀ i : Instr, encode i =
    asmF4 0x2#32 ((op3Of i).setWidth 32) 0x0#32 ||| (i.rd.setWidth 32 <<< 25) |||
      (i.rs1.setWidth 32 <<< 14) ||| i.rs2.setWidth 32) ∧
  ∀ (w : Word) (i : Instr), i.wellFormed = true →
    (decode w = .instr i ↔
      w &&& decodeMask = matchWord i ∧ w.extractLsb' 25 5 = i.rd ∧ w.extractLsb' 14 5 = i.rs1 ∧
        w.extractLsb' 0 5 = i.rs2)

/-- The words of 95_test_vectors.md section 2: V1 to V8 are accepted, one for each instruction, and V14, V16, V17,
V19, V20 and V24 refused. -/
def Obligations.VectorWordsDecode : Prop :=
  decode 0x8C508024#32 = .instr (.umuld 6#5 2#5 4#5) ∧
  decode 0x90D40032#32 = .instr (.umuldcc 8#5 16#5 18#5) ∧
  decode 0x94588024#32 = .instr (.smuld 10#5 2#5 4#5) ∧
  decode 0xA8DE003A#32 = .instr (.smuldcc 20#5 24#5 26#5) ∧
  decode 0x90718024#32 = .instr (.udivd 8#5 6#5 4#5) ∧
  decode 0x98F40032#32 = .instr (.udivdcc 12#5 16#5 18#5) ∧
  decode 0x84788024#32 = .instr (.sdivd 2#5 2#5 4#5) ∧
  decode 0xBCFF0036#32 = .instr (.sdivdcc 30#5 28#5 22#5) ∧
  decode 0x8E508024#32 = .refuse .oddPairRegister ∧
  decode 0x8C508025#32 = .refuse .oddPairRegister ∧
  decode 0x8C508064#32 = .refuse .unusedBitsNonzero ∧
  decode 0x8C508004#32 = .refuse .notInScope ∧
  decode 0x8C50A024#32 = .refuse .notInScope ∧
  decode 0x8C508065#32 = .refuse .unusedBitsNonzero

/-- Rule R16: an odd register number leaves the instruction without a meaning, in the decoder and in the meaning
itself; the two other settings of `ODD_PAIR_POLICY` trap, or read the number below. -/
def Obligations.OddRegisterNumberIsRefused : Prop :=
  ∀ i : Instr, i.wellFormed = false →
    decode (encode i) = .refuse .oddPairRegister ∧
    (∀ s : State, exec i s = .refused (.noMeaning .oddPairRegister)) ∧
    ∀ u : UnusedBitsPolicy,
      decodeWith .illegalInstruction u (encode i) = .illegal ∧
      ∃ j : Instr, decodeWith .clearBit0 u (encode i) = .instr j ∧ j.wellFormed = true ∧
        op3Of j = op3Of i ∧
        j.rd.toNat = 2 * (i.rd.toNat / 2) ∧ j.rs1.toNat = 2 * (i.rs1.toNat / 2) ∧
        j.rs2.toNat = 2 * (i.rs2.toNat / 2)

/-- Rule R48: the encoder emits zeros in bits 12:6; a word that differs from an instruction's only there is given
no meaning; the two other settings of `UNUSED_BITS_POLICY` trap, or execute as if the bits were zero. -/
def Obligations.UnusedBitsAreRefused : Prop :=
  ∀ (i : Instr) (u : BitVec 7),
    (encode i).extractLsb' 6 7 = 0#7 ∧
    (u ≠ 0#7 →
      decode (encode i ||| (u.setWidth 32 <<< 6)) = .refuse .unusedBitsNonzero ∧
      ∀ p : OddPairPolicy,
        decodeWith p .illegalInstruction (encode i ||| (u.setWidth 32 <<< 6)) = .illegal ∧
        decodeWith p .ignore (encode i ||| (u.setWidth 32 <<< 6)) = decodeWith p .ignore (encode i))

/-- 30_encoding.md section 5: UMULD is written `umuldaj`, the other seven (as the spec derives) as their Syntax lines
spell them, and `umuld` is the mnemonic of no instruction here. The encoding is unaffected by the renaming. -/
def Obligations.AssemblerMnemonics : Prop :=
  (∀ rd rs1 rs2 : RegNum,
    mnemonic (.umuld rd rs1 rs2) = "umuldaj" ∧ mnemonic (.umuldcc rd rs1 rs2) = "umuldcc" ∧
    mnemonic (.smuld rd rs1 rs2) = "smuld" ∧ mnemonic (.smuldcc rd rs1 rs2) = "smuldcc" ∧
    mnemonic (.udivd rd rs1 rs2) = "udivd" ∧ mnemonic (.udivdcc rd rs1 rs2) = "udivdcc" ∧
    mnemonic (.sdivd rd rs1 rs2) = "sdivd" ∧ mnemonic (.sdivdcc rd rs1 rs2) = "sdivdcc") ∧
  (∀ src1 src2 dest : String, instrOfAsm ["umuld", src1, src2, dest] = none) ∧
  ∀ rd rs1 rs2 : RegNum, encode (.umuld rd rs1 rs2) &&& 0xC1F83FE0#32 = 0x80500020#32

/-- An instruction's line names that instruction: sources first, destination last (30_encoding.md section 5). The
register spelling among the names of rule R12 is the model's choice (notes/assumptions/12.md). -/
def Obligations.AssemblerLineNamesTheInstruction : Prop :=
  ∀ i : Instr, asmWords i = [mnemonic i, regName i.rs1, regName i.rs2, regName i.rd] ∧
    instrOfAsm (asmWords i) = some i

/-! ## Registers and pairs -/

/-- Rule R11: register 0 is hardwired to zero, and what that makes of the pair it names. -/
def Obligations.RegisterZeroIsHardwired : Prop :=
  ∀ (s : State) (v : Word) (p : DWord),
    s.readReg 0#5 = 0#32 ∧ s.writeReg 0#5 v = s ∧ (s.writeReg 0#5 v).readReg 0#5 = 0#32 ∧
    s.readPair 0#5 = 0#32 ++ s.readReg 1#5 ∧
    (s.writePair 0#5 p).readReg 1#5 = p.extractLsb' 0 32 ∧
    ∀ r : RegNum, r ≠ 1#5 → (s.writePair 0#5 p).readReg r = s.readReg r

/-- Rules R14 and R15: what a pair reads as, what a pair write leaves in every register and that it changes
nothing else, with the half that falls to register 0 discarded. -/
def Obligations.PairReadAndWrite : Prop :=
  ∀ (s : State) (n : RegNum) (v : DWord), evenReg n = true →
    s.readPair n = s.readReg n ++ s.readReg (n + 1#5) ∧
    (s.readPair n).extractLsb' 32 32 = s.readReg n ∧
    (s.readPair n).extractLsb' 0 32 = s.readReg (n + 1#5) ∧
    (s.writePair n v).HoldsPair n v ∧
    (n ≠ 0#5 → (s.writePair n v).readPair n = v) ∧
    (∀ r : RegNum, r ≠ n → r ≠ n + 1#5 → (s.writePair n v).readReg r = s.readReg r) ∧
    (s.writePair n v).icc = s.icc ∧ (s.writePair n v).pc = s.pc ∧ (s.writePair n v).npc = s.npc ∧
    (s.writePair n v).status = s.status ∧ (s.writePair n v).mem = s.mem

/-! ## The multiply family -/

/-- Rule R71 (the spec's decisions D3, D7). -/
def Obligations.UmuldWritesTheLowProduct : Prop :=
  ∀ (rd rs1 rs2 : RegNum) (s : State),
    evenReg rd = true → evenReg rs1 = true → evenReg rs2 = true →
    EncodedAs (.umuld rd rs1 rs2) 0x80500020#32 ∧ WrittenAs (.umuld rd rs1 rs2) "umuldaj" ∧
    ∃ t : State, exec (.umuld rd rs1 rs2) s = .next t ∧
      s.Completed t rd (BitVec.ofNat 64 ((s.pairValue rs1).toNat * (s.pairValue rs2).toNat)) ∧
      t.icc = s.icc

/-- Rule R72. N, V and C are draws: nothing is said of them. Z tests the 64-bit result, with rd = 0 too. -/
def Obligations.UmuldccWritesTheLowProductAndZ : Prop :=
  ∀ (rd rs1 rs2 : RegNum) (s : State) (p : DWord),
    evenReg rd = true → evenReg rs1 = true → evenReg rs2 = true →
    p = BitVec.ofNat 64 ((s.pairValue rs1).toNat * (s.pairValue rs2).toNat) →
    EncodedAs (.umuldcc rd rs1 rs2) 0x80D00020#32 ∧ WrittenAs (.umuldcc rd rs1 rs2) "umuldcc" ∧
    ∃ t : State, exec (.umuldcc rd rs1 rs2) s = .next t ∧ s.Completed t rd p ∧
      (t.icc.z = true ↔ p = 0#64)

/-- Rule R73 (the spec's decisions D3, D7). -/
def Obligations.SmuldWritesTheLowSignedProduct : Prop :=
  ∀ (rd rs1 rs2 : RegNum) (s : State),
    evenReg rd = true → evenReg rs1 = true → evenReg rs2 = true →
    EncodedAs (.smuld rd rs1 rs2) 0x80580020#32 ∧ WrittenAs (.smuld rd rs1 rs2) "smuld" ∧
    ∃ t : State, exec (.smuld rd rs1 rs2) s = .next t ∧
      s.Completed t rd (BitVec.ofInt 64 ((s.pairValue rs1).toInt * (s.pairValue rs2).toInt)) ∧
      t.icc = s.icc

/-- Rule R74. C is a draw: nothing is said of it. V is the source's O. -/
def Obligations.SmuldccWritesTheLowSignedProductAndFlags : Prop :=
  ∀ (rd rs1 rs2 : RegNum) (s : State) (k : Int),
    evenReg rd = true → evenReg rs1 = true → evenReg rs2 = true →
    k = (s.pairValue rs1).toInt * (s.pairValue rs2).toInt →
    EncodedAs (.smuldcc rd rs1 rs2) 0x80D80020#32 ∧ WrittenAs (.smuldcc rd rs1 rs2) "smuldcc" ∧
    ∃ t : State, exec (.smuldcc rd rs1 rs2) s = .next t ∧ s.Completed t rd (BitVec.ofInt 64 k) ∧
      (t.icc.z = true ↔ BitVec.ofInt 64 k = 0#64) ∧
      t.icc.n = (BitVec.ofInt 64 k).getLsbD 63 ∧
      (t.icc.v = true ↔ k < -2 ^ 63 ∨ k > 2 ^ 63 - 1) ∧
      (t.icc.v = true ↔ (BitVec.ofInt 64 k).toInt ≠ k)

/-- The signed and the unsigned multiply write the same pair, so without the flags they are the same instruction
(rule R70's derived sentence, law 1 of 40_multiply.md section 6). -/
def Obligations.SignedAndUnsignedMultiplyAgree : Prop :=
  ∀ (rd rs1 rs2 : RegNum) (s : State), exec (.umuld rd rs1 rs2) s = exec (.smuld rd rs1 rs2) s

/-- The laws of 40_multiply.md section 6 (R75, which the spec marks as derived): 1 to 6, of the values that the
meanings write. -/
def Obligations.MultiplyLaws : Prop :=
  (∀ a b : DWord, umul64 a b = smul64 a b) ∧
  (∀ a b : DWord, umul64 a b = umul64 b a) ∧
  (∀ a : DWord, umul64 a 0#64 = 0#64 ∧ umul64 a 1#64 = a ∧ umul64 a 0xFFFFFFFFFFFFFFFF#64 = -a) ∧
  (∀ a b : DWord, (umul64 a b).toNat = a.toNat * b.toNat % 2 ^ 64) ∧
  (∀ a b : DWord, smulOverflows a b = false →
    (0 < a.toInt → 0 < b.toInt → negFlag (smul64 a b) = false) ∧
    (0 < a.toInt → b.toInt < 0 → negFlag (smul64 a b) = true) ∧
    (a.toInt < 0 → 0 < b.toInt → negFlag (smul64 a b) = true) ∧
    (a.toInt < 0 → b.toInt < 0 → negFlag (smul64 a b) = false)) ∧
  (∀ a b : DWord, a = 0#64 ∨ b = 0#64 →
    zeroFlag (smul64 a b) = true ∧ negFlag (smul64 a b) = false ∧ smulOverflows a b = false) ∧
  (∀ a b : DWord, a.toInt = -2 ^ 63 → b.toInt = -1 →
    smul64 a b = 0x8000000000000000#64 ∧ smul64 b a = 0x8000000000000000#64 ∧
    smulOverflows a b = true ∧ smulOverflows b a = true) ∧
  ∀ a b : DWord, zeroFlag (umul64 a b) = zeroFlag (smul64 a b)

/-! ## The divide family -/

/-- Rule R81 (the spec's decisions D12, D14): floor of the unsigned quotient, or the trap of rule R80. -/
def Obligations.UdivdWritesTheQuotient : Prop :=
  ∀ (rd rs1 rs2 : RegNum) (s : State),
    evenReg rd = true → evenReg rs1 = true → evenReg rs2 = true →
    EncodedAs (.udivd rd rs1 rs2) 0x80700020#32 ∧ WrittenAs (.udivd rd rs1 rs2) "udivd" ∧
    (s.pairValue rs2 = 0#64 → exec (.udivd rd rs1 rs2) s = .next (s.raiseTrap 0x2A#8)) ∧
    (s.pairValue rs2 ≠ 0#64 → ∃ t : State, exec (.udivd rd rs1 rs2) s = .next t ∧
      s.Completed t rd (BitVec.ofNat 64 ((s.pairValue rs1).toNat / (s.pairValue rs2).toNat)) ∧
      t.icc = s.icc)

/-- Rule R82. N and C are draws: nothing is said of them. V, the source's O, is always 0 (D12). -/
def Obligations.UdivdccWritesTheQuotientAndFlags : Prop :=
  ∀ (rd rs1 rs2 : RegNum) (s : State),
    evenReg rd = true → evenReg rs1 = true → evenReg rs2 = true →
    EncodedAs (.udivdcc rd rs1 rs2) 0x80F00020#32 ∧ WrittenAs (.udivdcc rd rs1 rs2) "udivdcc" ∧
    (s.pairValue rs2 = 0#64 → exec (.udivdcc rd rs1 rs2) s = .next (s.raiseTrap 0x2A#8)) ∧
    (s.pairValue rs2 ≠ 0#64 → ∃ t : State, exec (.udivdcc rd rs1 rs2) s = .next t ∧
      s.Completed t rd (BitVec.ofNat 64 ((s.pairValue rs1).toNat / (s.pairValue rs2).toNat)) ∧
      (t.icc.z = true ↔ (s.pairValue rs1).toNat < (s.pairValue rs2).toNat) ∧ t.icc.v = false)

/-- Rule R83: the quotient rounded toward zero; in the one overflow case some 64-bit value, of which nothing is
said. -/
def Obligations.SdivdWritesTheQuotient : Prop :=
  ∀ (rd rs1 rs2 : RegNum) (s : State) (a b : Int),
    evenReg rd = true → evenReg rs1 = true → evenReg rs2 = true →
    a = (s.pairValue rs1).toInt → b = (s.pairValue rs2).toInt →
    EncodedAs (.sdivd rd rs1 rs2) 0x80780020#32 ∧ WrittenAs (.sdivd rd rs1 rs2) "sdivd" ∧
    (b = 0 → exec (.sdivd rd rs1 rs2) s = .next (s.raiseTrap 0x2A#8)) ∧
    (b ≠ 0 → ∃ (t : State) (q : DWord), exec (.sdivd rd rs1 rs2) s = .next t ∧ s.Completed t rd q ∧
      t.icc = s.icc ∧ (¬(a = -2 ^ 63 ∧ b = -1) → q = BitVec.ofInt 64 (a.tdiv b) ∧ q.toInt = a.tdiv b))

/-- Rule R84: as rule R83, with Z and N of the value written, in the overflow case too, and V set in that case
alone. C is a draw: nothing is said of it. -/
def Obligations.SdivdccWritesTheQuotientAndFlags : Prop :=
  ∀ (rd rs1 rs2 : RegNum) (s : State) (a b : Int),
    evenReg rd = true → evenReg rs1 = true → evenReg rs2 = true →
    a = (s.pairValue rs1).toInt → b = (s.pairValue rs2).toInt →
    EncodedAs (.sdivdcc rd rs1 rs2) 0x80F80020#32 ∧ WrittenAs (.sdivdcc rd rs1 rs2) "sdivdcc" ∧
    (b = 0 → exec (.sdivdcc rd rs1 rs2) s = .next (s.raiseTrap 0x2A#8)) ∧
    (b ≠ 0 → ∃ (t : State) (q : DWord), exec (.sdivdcc rd rs1 rs2) s = .next t ∧ s.Completed t rd q ∧
      (t.icc.z = true ↔ q = 0#64) ∧ t.icc.n = q.getLsbD 63 ∧
      (t.icc.v = true ↔ a = -2 ^ 63 ∧ b = -1) ∧
      (¬(a = -2 ^ 63 ∧ b = -1) → q = BitVec.ofInt 64 (a.tdiv b) ∧ q.toInt = a.tdiv b))

/-- Rule R80: the zero-divisor test of the four divides, on all 64 bits of the divisor pair; when it fires
nothing is written, and otherwise there is no trap. -/
def Obligations.ZeroDivisorTrapsAndWritesNothing : Prop :=
  ∀ (i : Instr) (s : State), i.wellFormed = true → i.isDivide = true →
    if s.readReg i.rs2 = 0#32 ∧ s.readReg (i.rs2 + 1#5) = 0#32 then
      ∃ t : State, exec i s = .next t ∧ t.status = .trapped 0x2A#8 ∧
        (∀ r : RegNum, t.readReg r = s.readReg r) ∧ t.icc = s.icc ∧ t.pc = s.pc ∧ t.npc = s.npc ∧
        ∀ a : Nat, t.readByte a = s.readByte a
    else ∃ t : State, exec i s = .next t ∧ t.status = s.status

/-- The laws of 41_divide.md section 6 (R85, which the spec marks as derived): 1 to 6, of the quotients that the
meanings write. -/
def Obligations.DivideLaws : Prop :=
  (∀ a b : DWord, b ≠ 0#64 →
    ∃ r : Nat, a.toNat = (udiv64 a b).toNat * b.toNat + r ∧ r < b.toNat) ∧
  (∀ a b : DWord, b ≠ 0#64 → sdivOverflows a b = false →
    (∃ r : Int, a.toInt = (sdiv64 a b).toInt * b.toInt + r ∧ |r| < |b.toInt| ∧
      (r = 0 ∨ (0 < r ∧ 0 < a.toInt) ∨ (r < 0 ∧ a.toInt < 0))) ∧
    (|a.toInt| < |b.toInt| → sdiv64 a b = 0#64) ∧
    (|b.toInt| ≤ |a.toInt| →
      (0 < a.toInt → 0 < b.toInt → 0 < (sdiv64 a b).toInt) ∧
      (0 < a.toInt → b.toInt < 0 → (sdiv64 a b).toInt < 0) ∧
      (a.toInt < 0 → 0 < b.toInt → (sdiv64 a b).toInt < 0) ∧
      (a.toInt < 0 → b.toInt < 0 → 0 < (sdiv64 a b).toInt))) ∧
  (∀ b : DWord, b ≠ 0#64 → udiv64 0#64 b = 0#64 ∧ sdiv64 0#64 b = 0#64) ∧
  (∀ a b : DWord, a.getLsbD 63 = false → b.getLsbD 63 = false → b ≠ 0#64 → udiv64 a b = sdiv64 a b) ∧
  ∀ a b : DWord, sdivOverflows a b = true ↔ a = 0x8000000000000000#64 ∧ b = 0xFFFFFFFFFFFFFFFF#64

/-- Law 7 of 41_divide.md section 6 (R85, derived) as two instructions run one after the other: UDIVD gives back
what UMULD multiplied when the product fits 64 bits. -/
def Obligations.UdivdUndoesUmuld : Prop :=
  ∀ (rd rs1 rs2 rq : RegNum) (s : State),
    evenReg rd = true → evenReg rs1 = true → evenReg rs2 = true → evenReg rq = true →
    rd ≠ 0#5 → rq ≠ 0#5 → rd ≠ rs2 → s.pairValue rs2 ≠ 0#64 →
    (s.pairValue rs1).toNat * (s.pairValue rs2).toNat < 2 ^ 64 →
    ∃ t u : State, exec (.umuld rd rs1 rs2) s = .next t ∧ exec (.udivd rq rd rs2) t = .next u ∧
      u.pairValue rq = s.pairValue rs1

/-! ## Over all instructions -/

/-- 10_state.md section 1 (R17): an instruction that completes reads the two source pairs alone and writes pair(rd)
alone, and icc in the CC forms. Two states that agree on the source pairs, and on the index of the next draw,
give the same pair(rd), icc and trap, whatever else they hold; that equal indices give equal draws is the
model's choice (notes/assumptions/6.md). -/
def Obligations.OnlyTheSourcePairsAreRead : Prop :=
  ∀ (i : Instr) (s₁ s₂ t₁ : State), i.wellFormed = true → s₁.status = .running → s₂.status = .running →
    s₁.pairValue i.rs1 = s₂.pairValue i.rs1 → s₁.pairValue i.rs2 = s₂.pairValue i.rs2 →
    s₁.draws = s₂.draws → exec i s₁ = .next t₁ →
    ∃ t₂ : State, exec i s₂ = .next t₂ ∧ t₁.status = t₂.status ∧
      (t₁.status = .running →
        t₁.readReg i.rd = t₂.readReg i.rd ∧ t₁.readReg (i.rd + 1#5) = t₂.readReg (i.rd + 1#5) ∧
        (i.setsIcc = true → t₁.icc = t₂.icc) ∧
        (i.setsIcc = false → t₁.icc = s₁.icc) ∧ s₁.SameOutsidePair t₁ i.rd)

/-- The draws reach nothing but what the spec leaves open: with another draw index (the model's own field,
notes/assumptions/6.md) the same instruction does all the same, but for the flags the source does not name
(rule R22) and, where a signed division overflows, the quotient and the Z and N computed from it. -/
def Obligations.DrawsReachOnlyWhatIsLeftOpen : Prop :=
  ∀ (i : Instr) (s t : State) (d : Nat), exec i s = .next t →
    ∃ u : State, exec i { s with draws := d } = .next u ∧
      u.pc = t.pc ∧ u.npc = t.npc ∧ u.status = t.status ∧ u.mem = t.mem ∧
      (∀ r : RegNum, r ≠ i.rd → r ≠ i.rd + 1#5 → u.readReg r = t.readReg r) ∧
      (i.setsIcc = false → u.icc = t.icc) ∧
      (op3Of i = 0x1B#6 ∨ op3Of i = 0x1E#6 ∨ op3Of i = 0x1F#6 → u.icc.v = t.icc.v) ∧
      (op3Of i = 0x1B#6 → u.icc.n = t.icc.n) ∧
      (¬((op3Of i = 0x0F#6 ∨ op3Of i = 0x1F#6) ∧ (s.pairValue i.rs1).toInt = -2 ^ 63 ∧
          (s.pairValue i.rs2).toInt = -1) →
        (∀ r : RegNum, u.readReg r = t.readReg r) ∧ u.icc.z = t.icc.z ∧
        (op3Of i = 0x1F#6 → u.icc.n = t.icc.n))

/-! ## The step -/

/-- 20_memory.md sections 1 and 2 (R31, R32): a word read is admitted when its address is a multiple of 4 and its
four bytes have content; the byte at the address holds bits 31:24 and the next three the bits below. That
FETCHABLE is the listed addresses is the model's choice (notes/assumptions/1.md). -/
def Obligations.WordReadIsBigEndian : Prop :=
  ∀ (m : Memory) (addr w : Word),
    Memory.readWord m addr = some w ↔
      addr.toNat % 4 = 0 ∧
      Memory.read m addr.toNat = some (w.extractLsb' 24 8) ∧
      Memory.read m (addr.toNat + 1) = some (w.extractLsb' 16 8) ∧
      Memory.read m (addr.toNat + 2) = some (w.extractLsb' 8 8) ∧
      Memory.read m (addr.toNat + 3) = some (w.extractLsb' 0 8)

/-- A step runs the decoded instruction (20_memory.md section 3): in a running state with an aligned pc whose four
bytes decode to an instruction, the step is that instruction's meaning on that state. -/
def Obligations.StepRunsTheDecodedInstruction : Prop :=
  ∀ (s : State) (b0 b1 b2 b3 : Byte) (i : Instr), s.status = .running → s.pc.toNat % 4 = 0 →
    s.readByte s.pc.toNat = some b0 → s.readByte (s.pc.toNat + 1) = some b1 →
    s.readByte (s.pc.toNat + 2) = some b2 → s.readByte (s.pc.toNat + 3) = some b3 →
    decodeBytes b0 b1 b2 b3 = .instr i → step s = exec i s

/-- 60_exceptions.md section 1 (R93): where the fetch is not admitted there is no step, neither an exception nor a
refusal, and the run stays where it is. The fault that stands for the missing step and the listed addresses
are the model's choices (notes/assumptions/9.md and 1.md). -/
def Obligations.FetchNotAdmittedIsStuck : Prop :=
  ∀ s : State, s.status = .running →
    (s.pc.toNat % 4 ≠ 0 ∨ ∃ k : Nat, k < 4 ∧ s.readByte (s.pc.toNat + k) = none) →
    step s = .fault .fetchNotAdmitted ∧ ∀ n : Nat, s.runFor n = s

/-- 60_exceptions.md section 1 (R92) and 00_scope.md section 4 (R6): a refused word leaves the mark and changes
nothing else, the step has no next state, and the run carries the mark from then on. How the two rules stand
together is the model's reading (notes/assumptions/7.md). -/
def Obligations.RefusedWordMarksTheRun : Prop :=
  ∀ (s : State) (w : Word) (reason : RefuseReason), s.status = .running → s.fetch = some w →
    decode w = .refuse reason →
    step s = .refused (.noMeaning reason) ∧
    ∀ n : Nat, s.runFor (n + 1) = { s with status := .refused reason }

/-- Rule R25: once the status is not Running no rule applies and the state never changes again, and the run is not
over successfully. -/
def Obligations.StoppedRunNeverChanges : Prop :=
  ∀ s : State, s.status ≠ .running →
    (∀ t : State, step s ≠ .next t) ∧ (∀ n : Nat, s.runFor n = s) ∧
    ∀ (entry : Word) (k : Nat), ¬s.OverSuccessfully entry k

/-- Rule R96: raising an exception sets the status and changes nothing else; the state it leaves has no step, is
never a final one, and no later step clears it. -/
def Obligations.RaisingSetsTheStatusAlone : Prop :=
  ∀ (s : State) (tt : BitVec 8),
    s.raiseTrap tt = { s with status := .trapped tt } ∧
    (∀ t : State, step (s.raiseTrap tt) ≠ .next t) ∧
    ∀ (n : Nat) (entry : Word) (k : Nat),
      ((s.raiseTrap tt).runFor n).status = .trapped tt ∧
      ¬((s.raiseTrap tt).runFor n).OverSuccessfully entry k

/-- The order of events in a step (60_exceptions.md section 3, and the three outcomes of 00_scope.md section 4):
fetch admission, then the decoder's refusals, then the zero-divisor test, then the writes. In a running state
exactly the first that applies happens. Rules R35 and R95 say only that there is no step where the fetch is not
admitted: that the step then answers the fault fetchNotAdmitted, and that the listed addresses are the fetchable ones, are
the model's choices (notes/assumptions/9.md and 1.md). That the step answers refused for a refused word is the
model's reading of rules R6 and R92 together (notes/assumptions/7.md). -/
def Obligations.StepFollowsTheOrderOfEvents : Prop :=
  ∀ s : State, s.status = .running →
    (s.fetch = none ∧ step s = .fault .fetchNotAdmitted) ∨
    ∃ w : Word, s.fetch = some w ∧
      ((∃ reason : RefuseReason, decode w = .refuse reason ∧ step s = .refused (.noMeaning reason)) ∨
      ∃ i : Instr, decode w = .instr i ∧
        if i.isDivide = true ∧ s.pairValue i.rs2 = 0#64 then step s = .next (s.raiseTrap 0x2A#8)
        else ∃ t : State, step s = .next t ∧ t.status = .running ∧ s.Advanced t)

/-- Rule R90: division_by_zero, type 0x2A, of a divide with a zero divisor pair is the only exception of a step;
illegal_instruction comes from no word under the default policies, and under others only where one of them
names it. -/
def Obligations.OnlyAZeroDivisorTraps : Prop :=
  (∀ (s t : State) (tt : BitVec 8), step s = .next t → t.status = .trapped tt →
    tt = 0x2A#8 ∧ t = { s with status := .trapped 0x2A#8 } ∧
    ∃ (w : Word) (i : Instr), s.fetch = some w ∧ decode w = .instr i ∧ i.isDivide = true ∧
      s.pairValue i.rs2 = 0#64) ∧
  ∀ (odd : OddPairPolicy) (unused : UnusedBitsPolicy) (w : Word), decodeWith odd unused w = .illegal →
    odd = .illegalInstruction ∨ unused = .illegalInstruction

/-- Every step keeps the invariant of a run, from every state that has it: pc and npc aligned (rule R20), npc =
pc + 4 (rule R19), the memory in canonical form, and no trap but division_by_zero (rule R90). The canonical
form is the model's (notes/assumptions/1.md). -/
def Obligations.EveryStepKeepsTheInvariant : Prop :=
  ∀ s t : State, s.Inv → step s = .next t → t.Inv

/-- The state after reset has the invariant; its pc and its empty memory are the model's choices
(notes/assumptions/1.md and 4.md). -/
def Obligations.ResetHasTheInvariant : Prop := State.reset.Inv

/-- The state after reset is a launch state of 70_reset_and_hazards.md section 1 for the model's `ENTRY`, which is
0 (notes/assumptions/4.md); register 0 reads zero in it and nothing is fetchable. -/
def Obligations.ResetIsALaunchState : Prop :=
  State.reset.LaunchedAt 0#32 ∧ State.reset.readReg 0#5 = 0#32 ∧ State.reset.npc = 4#32 ∧
  ∀ a : Nat, State.reset.readByte a = none

/-- Rule R41: the program text is fixed for the whole run, whatever the run executes and however it ends. -/
def Obligations.ProgramTextNeverChanges : Prop :=
  ∀ (s : State) (n a : Nat), (s.runFor n).readByte a = s.readByte a

/-- A run that completes k instructions from any launch state stands at entry + 4k, over successfully in the sense
of 70_reset_and_hazards.md section 2, with npc at the next word: no instruction transfers control. -/
def Obligations.RunIsStraightLine : Prop :=
  ∀ (s t : State) (entry : Word) (k : Nat), s.LaunchedAt entry →
    Host.Core.run Sys2Proof.core k s = .next t → t.status = .running →
    t.OverSuccessfully entry k ∧ t.npc = entry + BitVec.ofNat 32 (4 * (k + 1)) ∧ t.Inv

/-- The word that `withFetchWord` places is the one the next step runs, for every instruction and from every state
with an aligned pc, whatever the run status was (the model's loader, notes/assumptions/5.md). -/
def Obligations.PlacedWordIsRunNext : Prop :=
  ∀ (s : State) (i : Instr), s.mem.wf → s.pc.toNat % 4 = 0 → i.wellFormed = true →
    step (s.withFetchWord 32 (encode i).toNat) = exec i (s.withFetchWord 32 (encode i).toNat)
end

