-- ==== Sys2Proof/Laws/Syntax.lean ====
section
/-! SUPPORT. The operand fields and the family of each instruction, as simp lemmas. -/

namespace Sys2Proof

@[simp] theorem Instr.umuld_rd (d a b : RegNum) : (Instr.umuld d a b).rd = d := rfl
@[simp] theorem Instr.umuld_rs1 (d a b : RegNum) : (Instr.umuld d a b).rs1 = a := rfl
@[simp] theorem Instr.umuld_rs2 (d a b : RegNum) : (Instr.umuld d a b).rs2 = b := rfl
@[simp] theorem Instr.umuld_isDivide (d a b : RegNum) : (Instr.umuld d a b).isDivide = false := rfl
@[simp] theorem Instr.umuld_setsIcc (d a b : RegNum) : (Instr.umuld d a b).setsIcc = false := rfl

@[simp] theorem Instr.umuldcc_rd (d a b : RegNum) : (Instr.umuldcc d a b).rd = d := rfl
@[simp] theorem Instr.umuldcc_rs1 (d a b : RegNum) : (Instr.umuldcc d a b).rs1 = a := rfl
@[simp] theorem Instr.umuldcc_rs2 (d a b : RegNum) : (Instr.umuldcc d a b).rs2 = b := rfl
@[simp] theorem Instr.umuldcc_isDivide (d a b : RegNum) : (Instr.umuldcc d a b).isDivide = false := rfl
@[simp] theorem Instr.umuldcc_setsIcc (d a b : RegNum) : (Instr.umuldcc d a b).setsIcc = true := rfl

@[simp] theorem Instr.smuld_rd (d a b : RegNum) : (Instr.smuld d a b).rd = d := rfl
@[simp] theorem Instr.smuld_rs1 (d a b : RegNum) : (Instr.smuld d a b).rs1 = a := rfl
@[simp] theorem Instr.smuld_rs2 (d a b : RegNum) : (Instr.smuld d a b).rs2 = b := rfl
@[simp] theorem Instr.smuld_isDivide (d a b : RegNum) : (Instr.smuld d a b).isDivide = false := rfl
@[simp] theorem Instr.smuld_setsIcc (d a b : RegNum) : (Instr.smuld d a b).setsIcc = false := rfl

@[simp] theorem Instr.smuldcc_rd (d a b : RegNum) : (Instr.smuldcc d a b).rd = d := rfl
@[simp] theorem Instr.smuldcc_rs1 (d a b : RegNum) : (Instr.smuldcc d a b).rs1 = a := rfl
@[simp] theorem Instr.smuldcc_rs2 (d a b : RegNum) : (Instr.smuldcc d a b).rs2 = b := rfl
@[simp] theorem Instr.smuldcc_isDivide (d a b : RegNum) : (Instr.smuldcc d a b).isDivide = false := rfl
@[simp] theorem Instr.smuldcc_setsIcc (d a b : RegNum) : (Instr.smuldcc d a b).setsIcc = true := rfl

@[simp] theorem Instr.udivd_rd (d a b : RegNum) : (Instr.udivd d a b).rd = d := rfl
@[simp] theorem Instr.udivd_rs1 (d a b : RegNum) : (Instr.udivd d a b).rs1 = a := rfl
@[simp] theorem Instr.udivd_rs2 (d a b : RegNum) : (Instr.udivd d a b).rs2 = b := rfl
@[simp] theorem Instr.udivd_isDivide (d a b : RegNum) : (Instr.udivd d a b).isDivide = true := rfl
@[simp] theorem Instr.udivd_setsIcc (d a b : RegNum) : (Instr.udivd d a b).setsIcc = false := rfl

@[simp] theorem Instr.udivdcc_rd (d a b : RegNum) : (Instr.udivdcc d a b).rd = d := rfl
@[simp] theorem Instr.udivdcc_rs1 (d a b : RegNum) : (Instr.udivdcc d a b).rs1 = a := rfl
@[simp] theorem Instr.udivdcc_rs2 (d a b : RegNum) : (Instr.udivdcc d a b).rs2 = b := rfl
@[simp] theorem Instr.udivdcc_isDivide (d a b : RegNum) : (Instr.udivdcc d a b).isDivide = true := rfl
@[simp] theorem Instr.udivdcc_setsIcc (d a b : RegNum) : (Instr.udivdcc d a b).setsIcc = true := rfl

@[simp] theorem Instr.sdivd_rd (d a b : RegNum) : (Instr.sdivd d a b).rd = d := rfl
@[simp] theorem Instr.sdivd_rs1 (d a b : RegNum) : (Instr.sdivd d a b).rs1 = a := rfl
@[simp] theorem Instr.sdivd_rs2 (d a b : RegNum) : (Instr.sdivd d a b).rs2 = b := rfl
@[simp] theorem Instr.sdivd_isDivide (d a b : RegNum) : (Instr.sdivd d a b).isDivide = true := rfl
@[simp] theorem Instr.sdivd_setsIcc (d a b : RegNum) : (Instr.sdivd d a b).setsIcc = false := rfl

@[simp] theorem Instr.sdivdcc_rd (d a b : RegNum) : (Instr.sdivdcc d a b).rd = d := rfl
@[simp] theorem Instr.sdivdcc_rs1 (d a b : RegNum) : (Instr.sdivdcc d a b).rs1 = a := rfl
@[simp] theorem Instr.sdivdcc_rs2 (d a b : RegNum) : (Instr.sdivdcc d a b).rs2 = b := rfl
@[simp] theorem Instr.sdivdcc_isDivide (d a b : RegNum) : (Instr.sdivdcc d a b).isDivide = true := rfl
@[simp] theorem Instr.sdivdcc_setsIcc (d a b : RegNum) : (Instr.sdivdcc d a b).setsIcc = true := rfl

end Sys2Proof
end

