-- ==== Sys2Proof/Laws/Encoding.lean ====
section
/-! SUPPORT. The fields of a word laid out as format F4, and of a word put together from its fields (rule R46). -/

namespace Sys2Proof

@[simp] theorem opField_layoutF4 (rd : RegNum) (op3 : BitVec 6) (rs1 rs2 : RegNum) :
    opField (layoutF4 rd op3 rs1 rs2) = 0b10#2 := by
  ext k hk
  simp [opField, layoutF4]
  grind

@[simp] theorem rdField_layoutF4 (rd : RegNum) (op3 : BitVec 6) (rs1 rs2 : RegNum) :
    rdField (layoutF4 rd op3 rs1 rs2) = rd := by
  ext k hk
  simp [rdField, layoutF4]
  grind

@[simp] theorem op3Field_layoutF4 (rd : RegNum) (op3 : BitVec 6) (rs1 rs2 : RegNum) :
    op3Field (layoutF4 rd op3 rs1 rs2) = op3 := by
  ext k hk
  simp [op3Field, layoutF4]
  grind

@[simp] theorem rs1Field_layoutF4 (rd : RegNum) (op3 : BitVec 6) (rs1 rs2 : RegNum) :
    rs1Field (layoutF4 rd op3 rs1 rs2) = rs1 := by
  ext k hk
  simp [rs1Field, layoutF4]
  grind

@[simp] theorem iField_layoutF4 (rd : RegNum) (op3 : BitVec 6) (rs1 rs2 : RegNum) :
    iField (layoutF4 rd op3 rs1 rs2) = 0#1 := by
  ext k hk
  simp [iField, layoutF4]
  grind

@[simp] theorem unusedField_layoutF4 (rd : RegNum) (op3 : BitVec 6) (rs1 rs2 : RegNum) :
    unusedField (layoutF4 rd op3 rs1 rs2) = 0#7 := by
  ext k hk
  simp [unusedField, layoutF4]
  grind

@[simp] theorem ajitField_layoutF4 (rd : RegNum) (op3 : BitVec 6) (rs1 rs2 : RegNum) :
    ajitField (layoutF4 rd op3 rs1 rs2) = 1#1 := by
  ext k hk
  simp [ajitField, layoutF4]
  grind

@[simp] theorem rs2Field_layoutF4 (rd : RegNum) (op3 : BitVec 6) (rs1 rs2 : RegNum) :
    rs2Field (layoutF4 rd op3 rs1 rs2) = rs2 := by
  ext k hk
  simp [rs2Field, layoutF4]
  grind

/-- A word is the layout of its own fields where the fixed and the unused bits are as rule R46 says. -/
theorem layoutF4_fields (w : Word) (hop : opField w = 0b10#2) (hi : iField w = 0#1)
    (hu : unusedField w = 0#7) (ha : ajitField w = 1#1) :
    layoutF4 (rdField w) (op3Field w) (rs1Field w) (rs2Field w) = w := by
  unfold layoutF4
  rw [← hop, ← hi, ← hu, ← ha]
  ext k hk
  simp [opField, rdField, op3Field, rs1Field, iField, unusedField, ajitField, rs2Field,
    ← BitVec.getLsbD_eq_getElem]
  grind

end Sys2Proof
end

