-- ==== Sys2Proof/Laws/Memory.lean ====
section
/-! SUPPORT. What the memory operations can do: read after write, and the canonical form they keep. -/

namespace Sys2Proof.Machine

@[simp] theorem Memory.read_nil (a : Nat) : Memory.read [] a = none := rfl

/-- A read after a write of one byte. -/
theorem Memory.read_write (m : Memory) (a : Nat) (v : Byte) (b : Nat) (h : m.wf) :
    Memory.read (Memory.write m a v) b = if b = a then some v else Memory.read m b := by
  induction m with
  | nil => simp [Memory.write, Memory.read]
  | cons c m ih =>
    obtain ⟨k, u⟩ := c
    have hm : Memory.wf m := ⟨(List.pairwise_cons.mp h.1).2, fun p hp => h.2 p (List.mem_cons_of_mem _ hp)⟩
    unfold Memory.write
    split
    · simp [Memory.read]
    · split
      · rename_i h1 h2; subst h2
        simp only [Memory.read]; split <;> simp_all
      · simp only [Memory.read, ih hm]
        split
        · rename_i h1 h2 h3; subst h3
          rw [if_neg (fun h => h2 h.symm)]
        · rfl

/-- Every address that a written memory lists was listed before or is the one written. -/
theorem Memory.mem_write (m : Memory) (a : Nat) (v : Byte) (p : Host.Cell) (hp : p ∈ Memory.write m a v) :
    p = (a, v) ∨ p ∈ m := by
  induction m with
  | nil => simpa [Memory.write] using hp
  | cons c m ih =>
    obtain ⟨k, u⟩ := c
    unfold Memory.write at hp
    split at hp
    · simpa using hp
    · split at hp
      · rcases List.mem_cons.mp hp with h | h
        · exact .inl h
        · exact .inr (List.mem_cons_of_mem _ h)
      · rcases List.mem_cons.mp hp with h | h
        · exact .inr (h ▸ List.mem_cons_self)
        · exact (ih h).imp_right (List.mem_cons_of_mem _)

/-- A write of one byte inside the address space keeps the canonical form. -/
theorem Memory.write_wf (m : Memory) (a : Nat) (v : Byte) (h : m.wf) (ha : a < 2 ^ 32) :
    (Memory.write m a v).wf := by
  refine ⟨?_, fun p hp => ?_⟩
  · have hr := h.1
    clear h
    induction m with
    | nil => simp [Memory.write]
    | cons c m ih =>
      obtain ⟨k, u⟩ := c
      have ⟨hk, hm⟩ := List.pairwise_cons.mp hr
      unfold Memory.write
      split
      · rename_i hlt
        refine List.pairwise_cons.mpr ⟨fun p hp => ?_, hr⟩
        rcases List.mem_cons.mp hp with h | h
        · subst h; exact hlt
        · exact Nat.lt_trans hlt (hk p h)
      · split
        · rename_i heq; subst heq
          exact List.pairwise_cons.mpr ⟨hk, hm⟩
        · rename_i h1 h2
          refine List.pairwise_cons.mpr ⟨fun p hp => ?_, ih hm⟩
          rcases Memory.mem_write m a v p hp with h | h
          · subst h; show k < a; omega
          · exact hk p h
  · rcases Memory.mem_write m a v p hp with h' | h'
    · subst h'; exact ha
    · exact h.2 p h'

/-- The loader keeps the canonical form. -/
theorem Memory.loadWord_wf (m : Memory) (addr w : Word) (h : m.wf) : (Memory.loadWord m addr w).wf := by
  unfold Memory.loadWord
  exact Memory.write_wf _ _ _ (Memory.write_wf _ _ _ (Memory.write_wf _ _ _ (Memory.write_wf _ _ _ h
    (BitVec.isLt _)) (BitVec.isLt _)) (BitVec.isLt _)) (BitVec.isLt _)

/-- All that a word read can answer: four bytes of content at an aligned address, most significant first. -/
theorem Memory.readWord_cases {m : Memory} {addr w : Word} (h : Memory.readWord m addr = some w) :
    addr.toNat % 4 = 0 ∧ ∃ b0 b1 b2 b3 : Byte,
      Memory.read m addr.toNat = some b0 ∧ Memory.read m (addr.toNat + 1) = some b1 ∧
      Memory.read m (addr.toNat + 2) = some b2 ∧ Memory.read m (addr.toNat + 3) = some b3 ∧
      w = wordOfBytes b0 b1 b2 b3 := by
  unfold Memory.readWord at h
  split at h
  · rename_i ha
    split at h
    · rename_i b0 b1 b2 b3 h0 h1 h2 h3
      exact ⟨ha, b0, b1, b2, b3, h0, h1, h2, h3, by simpa using h.symm⟩
    · cases h
  · cases h

/-- The bytes of a word put together again are the word. -/
theorem wordOfBytes_byteOfWord (w : Word) :
    wordOfBytes (byteOfWord w 0) (byteOfWord w 1) (byteOfWord w 2) (byteOfWord w 3) = w := by
  unfold wordOfBytes byteOfWord
  ext i hi
  simp only [BitVec.getElem_append, BitVec.getElem_extractLsb']
  split
  · simp [BitVec.getLsbD_eq_getElem hi]
  · split
    · simp only [← BitVec.getLsbD_eq_getElem]; congr 1; omega
    · split
      · simp only [← BitVec.getLsbD_eq_getElem]; congr 1; omega
      · simp only [← BitVec.getLsbD_eq_getElem]; congr 1; omega

/-- An aligned word that was loaded is read back. -/
theorem Memory.readWord_loadWord (m : Memory) (addr w : Word) (h : m.wf) (ha : addr.toNat % 4 = 0) :
    Memory.readWord (Memory.loadWord m addr w) addr = some w := by
  have hlt := addr.isLt
  have e1 : (addr + 1#32).toNat = addr.toNat + 1 := by
    rw [BitVec.toNat_add]; simp; omega
  have e2 : (addr + 2#32).toNat = addr.toNat + 2 := by
    rw [BitVec.toNat_add]; simp; omega
  have e3 : (addr + 3#32).toNat = addr.toNat + 3 := by
    rw [BitVec.toNat_add]; simp; omega
  have h0 := Memory.write_wf m addr.toNat (byteOfWord w 0) h hlt
  have h1 := Memory.write_wf _ (addr + 1#32).toNat (byteOfWord w 1) h0 (BitVec.isLt _)
  have h2 := Memory.write_wf _ (addr + 2#32).toNat (byteOfWord w 2) h1 (BitVec.isLt _)
  rw [e1] at h1
  rw [e1, e2] at h2
  unfold Memory.readWord Memory.loadWord
  rw [if_pos ha, e1, e2, e3]
  simp only [Memory.read_write _ _ _ _ h2, Memory.read_write _ _ _ _ h1, Memory.read_write _ _ _ _ h0,
    Memory.read_write _ _ _ _ h]
  simp [wordOfBytes_byteOfWord]

end Sys2Proof.Machine
end

