-- ==== Sys2Proof/Laws/State.lean ====
section
/-! SUPPORT. The small lemmas of the state record: what each named update does to each field. -/

namespace Sys2Proof.Machine

@[simp] theorem State.advance_gpr (s : State) : (s.advance).gpr = s.gpr := rfl
@[simp] theorem State.advance_icc (s : State) : (s.advance).icc = s.icc := rfl
@[simp] theorem State.advance_pc (s : State) : (s.advance).pc = s.npc := rfl
@[simp] theorem State.advance_npc (s : State) : (s.advance).npc = s.npc + 4#32 := rfl
@[simp] theorem State.advance_status (s : State) : (s.advance).status = s.status := rfl
@[simp] theorem State.advance_mem (s : State) : (s.advance).mem = s.mem := rfl
@[simp] theorem State.advance_draws (s : State) : (s.advance).draws = s.draws + 3 := rfl

@[simp] theorem State.raiseTrap_gpr (s : State) (tt : BitVec 8) : (s.raiseTrap tt).gpr = s.gpr := rfl
@[simp] theorem State.raiseTrap_icc (s : State) (tt : BitVec 8) : (s.raiseTrap tt).icc = s.icc := rfl
@[simp] theorem State.raiseTrap_pc (s : State) (tt : BitVec 8) : (s.raiseTrap tt).pc = s.pc := rfl
@[simp] theorem State.raiseTrap_npc (s : State) (tt : BitVec 8) : (s.raiseTrap tt).npc = s.npc := rfl
@[simp] theorem State.raiseTrap_status (s : State) (tt : BitVec 8) : (s.raiseTrap tt).status = .trapped tt := rfl
@[simp] theorem State.raiseTrap_mem (s : State) (tt : BitVec 8) : (s.raiseTrap tt).mem = s.mem := rfl
@[simp] theorem State.raiseTrap_draws (s : State) (tt : BitVec 8) : (s.raiseTrap tt).draws = s.draws := rfl

@[simp] theorem State.markRefused_gpr (s : State) (q : RefuseReason) : (s.markRefused q).gpr = s.gpr := rfl
@[simp] theorem State.markRefused_icc (s : State) (q : RefuseReason) : (s.markRefused q).icc = s.icc := rfl
@[simp] theorem State.markRefused_pc (s : State) (q : RefuseReason) : (s.markRefused q).pc = s.pc := rfl
@[simp] theorem State.markRefused_npc (s : State) (q : RefuseReason) : (s.markRefused q).npc = s.npc := rfl
@[simp] theorem State.markRefused_status (s : State) (q : RefuseReason) : (s.markRefused q).status = .refused q := rfl
@[simp] theorem State.markRefused_mem (s : State) (q : RefuseReason) : (s.markRefused q).mem = s.mem := rfl
@[simp] theorem State.markRefused_draws (s : State) (q : RefuseReason) : (s.markRefused q).draws = s.draws := rfl

@[simp] theorem State.writeReg_icc (s : State) (r : RegNum) (v : Word) :
    (s.writeReg r v).icc = s.icc := by
  unfold State.writeReg; split <;> rfl

@[simp] theorem State.writeReg_pc (s : State) (r : RegNum) (v : Word) :
    (s.writeReg r v).pc = s.pc := by
  unfold State.writeReg; split <;> rfl

@[simp] theorem State.writeReg_npc (s : State) (r : RegNum) (v : Word) :
    (s.writeReg r v).npc = s.npc := by
  unfold State.writeReg; split <;> rfl

@[simp] theorem State.writeReg_status (s : State) (r : RegNum) (v : Word) :
    (s.writeReg r v).status = s.status := by
  unfold State.writeReg; split <;> rfl

@[simp] theorem State.writeReg_mem (s : State) (r : RegNum) (v : Word) :
    (s.writeReg r v).mem = s.mem := by
  unfold State.writeReg; split <;> rfl

@[simp] theorem State.writeReg_draws (s : State) (r : RegNum) (v : Word) :
    (s.writeReg r v).draws = s.draws := by
  unfold State.writeReg; split <;> rfl

@[simp] theorem State.writePair_icc (s : State) (n : RegNum) (v : DWord) :
    (s.writePair n v).icc = s.icc := by
  simp [State.writePair]

@[simp] theorem State.writePair_pc (s : State) (n : RegNum) (v : DWord) :
    (s.writePair n v).pc = s.pc := by
  simp [State.writePair]

@[simp] theorem State.writePair_npc (s : State) (n : RegNum) (v : DWord) :
    (s.writePair n v).npc = s.npc := by
  simp [State.writePair]

@[simp] theorem State.writePair_status (s : State) (n : RegNum) (v : DWord) :
    (s.writePair n v).status = s.status := by
  simp [State.writePair]

@[simp] theorem State.writePair_mem (s : State) (n : RegNum) (v : DWord) :
    (s.writePair n v).mem = s.mem := by
  simp [State.writePair]

@[simp] theorem State.writePair_draws (s : State) (n : RegNum) (v : DWord) :
    (s.writePair n v).draws = s.draws := by
  simp [State.writePair]

@[simp] theorem State.retire_gpr (s : State) (rd : RegNum) (v : DWord) (c : Icc) :
    (s.retire rd v c).gpr = (s.writePair rd v).gpr := by
  simp [State.retire]

@[simp] theorem State.retire_icc (s : State) (rd : RegNum) (v : DWord) (c : Icc) :
    (s.retire rd v c).icc = c := by
  simp [State.retire]

@[simp] theorem State.retire_pc (s : State) (rd : RegNum) (v : DWord) (c : Icc) :
    (s.retire rd v c).pc = s.npc := by
  simp [State.retire]

@[simp] theorem State.retire_npc (s : State) (rd : RegNum) (v : DWord) (c : Icc) :
    (s.retire rd v c).npc = s.npc + 4#32 := by
  simp [State.retire]

@[simp] theorem State.retire_status (s : State) (rd : RegNum) (v : DWord) (c : Icc) :
    (s.retire rd v c).status = s.status := by
  simp [State.retire]

@[simp] theorem State.retire_mem (s : State) (rd : RegNum) (v : DWord) (c : Icc) :
    (s.retire rd v c).mem = s.mem := by
  simp [State.retire]

@[simp] theorem State.retire_draws (s : State) (rd : RegNum) (v : DWord) (c : Icc) :
    (s.retire rd v c).draws = s.draws + 3 := by
  simp [State.retire]

/-- Reading a register looks at the register file alone. -/
theorem State.readReg_congr (s t : State) (h : s.gpr = t.gpr) (r : RegNum) : s.readReg r = t.readReg r := by
  simp [State.readReg, h]

@[simp] theorem State.advance_readReg (s : State) (r : RegNum) : s.advance.readReg r = s.readReg r := rfl

@[simp] theorem State.raiseTrap_readReg (s : State) (tt : BitVec 8) (r : RegNum) :
    (s.raiseTrap tt).readReg r = s.readReg r := rfl

@[simp] theorem State.markRefused_readReg (s : State) (q : RefuseReason) (r : RegNum) :
    (s.markRefused q).readReg r = s.readReg r := rfl

theorem State.retire_readReg (s : State) (rd : RegNum) (v : DWord) (c : Icc) (r : RegNum) :
    (s.retire rd v c).readReg r = (s.writePair rd v).readReg r := rfl

end Sys2Proof.Machine
end

