-- ==== Sys2Proof/Laws/Ops.lean ====
section
/-! SUPPORT. One lemma for each shared operation that says what it can do: registers, pairs, operand assembly,
the last stage of an instruction and the zero-divisor test. -/

namespace Sys2Proof.Machine

/-! ## Even register numbers -/

/-- An even number is not 31, so the odd register of its pair is the next number. -/
theorem toNat_succ_of_even {n : RegNum} (h : evenReg n) : (n + 1#5).toNat = n.toNat + 1 := by
  revert h; revert n; decide

theorem succ_ne_zero_of_even {n : RegNum} (h : evenReg n) : n + 1#5 ≠ 0#5 := by
  revert h; revert n; decide

theorem succ_ne_self (n : RegNum) : n + 1#5 ≠ n := by
  revert n; decide

/-! ## Registers -/

@[simp] theorem State.readReg_zero (s : State) : s.readReg 0#5 = 0#32 := rfl

@[simp] theorem State.writeReg_zero (s : State) (v : Word) : s.writeReg 0#5 v = s := rfl

theorem regIndex_inj {q r : RegNum} (hq : q ≠ 0#5) (hr : r ≠ 0#5) (h : regIndex q = regIndex r) : q = r := by
  have hv := congrArg Fin.val h
  have hq' : q.toNat ≠ 0 := fun e => hq (BitVec.eq_of_toNat_eq e)
  have hr' : r.toNat ≠ 0 := fun e => hr (BitVec.eq_of_toNat_eq e)
  simp only [regIndex] at hv
  exact BitVec.eq_of_toNat_eq (by omega)

/-- A register read after a register write. -/
theorem State.readReg_writeReg (s : State) (r : RegNum) (v : Word) (q : RegNum) :
    (s.writeReg r v).readReg q = if q = r ∧ r ≠ 0#5 then v else s.readReg q := by
  by_cases hr : r = 0#5
  · subst hr; simp
  by_cases hq : q = 0#5
  · subst hq; simp [Ne.symm hr]
  by_cases h : q = r
  · subst h; simp [State.readReg, State.writeReg, hq]
  · have hi : (regIndex r).val ≠ (regIndex q).val := fun e => h (regIndex_inj hq hr (Fin.ext e.symm))
    simp [State.readReg, State.writeReg, hr, hq, h, hi]

/-! ## Pairs -/

/-- The value of a pair is its even register in the high half (rule R14). -/
theorem State.readPair_eq (s : State) (n : RegNum) : s.readPair n = s.readReg n ++ s.readReg (n + 1#5) := rfl

theorem State.writePair_eq (s : State) (n : RegNum) (v : DWord) :
    s.writePair n v = (s.writeReg n (v.extractLsb' 32 32)).writeReg (n + 1#5) (v.extractLsb' 0 32) := rfl

/-- A register read after a pair write (rule R15). -/
theorem State.readReg_writePair (s : State) (n : RegNum) (v : DWord) (h : evenReg n) (q : RegNum) :
    (s.writePair n v).readReg q =
      if q = n + 1#5 then v.extractLsb' 0 32
      else if q = n ∧ n ≠ 0#5 then v.extractLsb' 32 32
      else s.readReg q := by
  rw [State.writePair_eq, State.readReg_writeReg, State.readReg_writeReg]
  simp [succ_ne_zero_of_even h]

/-! ## The Y register -/

/-- At the value of rule R4, Y keeps its value, whatever the draw (rule R23). -/
@[simp] theorem yAfter_params (draw old : Word) : yAfter params.yPolicy draw old = old := rfl

/-! ## Instructions -/

/-- Operand assembly with even register numbers. -/
theorem onPairs_even {rd rs1 rs2 : RegNum} (s : State) (k : DWord → DWord → Result)
    (hd : evenReg rd) (h1 : evenReg rs1) (h2 : evenReg rs2) :
    onPairs rd rs1 rs2 s k = k (s.readPair rs1) (s.readPair rs2) := by
  simp [onPairs, hd, h1, h2]

/-- If operand assembly goes on, the register numbers are even. -/
theorem onPairs_next {rd rs1 rs2 : RegNum} {s t : State} {k : DWord → DWord → Result}
    (h : onPairs rd rs1 rs2 s k = .next t) :
    (evenReg rd ∧ evenReg rs1 ∧ evenReg rs2) ∧ k (s.readPair rs1) (s.readPair rs2) = .next t := by
  unfold onPairs at h
  split at h
  · exact ⟨‹_›, h⟩
  · cases h

/-- The zero-divisor test raises division_by_zero or leaves the quotient's state. -/
theorem divideInto_cases {s : State} {b : DWord} {t u : State} (h : divideInto s b t = .next u) :
    (b = 0#64 ∧ u = s.raiseTrap 0x2A#8) ∨ (b ≠ 0#64 ∧ u = t) := by
  unfold divideInto at h
  split at h
  · exact .inl ⟨‹_›, by simpa [params] using h.symm⟩
  · exact .inr ⟨‹_›, by simpa using h.symm⟩

/-- A register read after an instruction's last stage. -/
theorem State.retire_readReg_eq (s : State) (rd : RegNum) (v : DWord) (c : Icc) (h : evenReg rd) (q : RegNum) :
    (s.retire rd v c).readReg q =
      if q = rd + 1#5 then v.extractLsb' 0 32
      else if q = rd ∧ rd ≠ 0#5 then v.extractLsb' 32 32
      else s.readReg q := by
  rw [State.retire_readReg, State.readReg_writePair s rd v h]

end Sys2Proof.Machine
end

