-- ==== Sys2Proof/Laws/Exec.lean ====
section
/-! SUPPORT. What each meaning does, once: with even register numbers it is its last stage, after the zero-divisor
test for a divide. And what `exec` and `step` can answer at all. -/

namespace Sys2Proof.Machine

theorem exec_umuld_even {rd rs1 rs2 : RegNum} (s : State)
    (hd : evenReg rd = true) (h1 : evenReg rs1 = true) (h2 : evenReg rs2 = true) :
    exec (.umuld rd rs1 rs2) s =
      .next (s.retire rd (umul64 (s.readPair rs1) (s.readPair rs2))
        s.icc) := by
  rw [exec, execUmuld, onPairs_even s _ hd h1 h2]

theorem exec_umuldcc_even {rd rs1 rs2 : RegNum} (s : State)
    (hd : evenReg rd = true) (h1 : evenReg rs1 = true) (h2 : evenReg rs2 = true) :
    exec (.umuldcc rd rs1 rs2) s =
      .next (s.retire rd (umul64 (s.readPair rs1) (s.readPair rs2))
        (iccUmuldcc s (umul64 (s.readPair rs1) (s.readPair rs2)))) := by
  rw [exec, execUmuldcc, onPairs_even s _ hd h1 h2]

theorem exec_smuld_even {rd rs1 rs2 : RegNum} (s : State)
    (hd : evenReg rd = true) (h1 : evenReg rs1 = true) (h2 : evenReg rs2 = true) :
    exec (.smuld rd rs1 rs2) s =
      .next (s.retire rd (smul64 (s.readPair rs1) (s.readPair rs2))
        s.icc) := by
  rw [exec, execSmuld, onPairs_even s _ hd h1 h2]

theorem exec_smuldcc_even {rd rs1 rs2 : RegNum} (s : State)
    (hd : evenReg rd = true) (h1 : evenReg rs1 = true) (h2 : evenReg rs2 = true) :
    exec (.smuldcc rd rs1 rs2) s =
      .next (s.retire rd (smul64 (s.readPair rs1) (s.readPair rs2))
        (iccSmuldcc s (smul64 (s.readPair rs1) (s.readPair rs2))
          (smulOverflows (s.readPair rs1) (s.readPair rs2)))) := by
  rw [exec, execSmuldcc, onPairs_even s _ hd h1 h2]

theorem exec_udivd_even {rd rs1 rs2 : RegNum} (s : State)
    (hd : evenReg rd = true) (h1 : evenReg rs1 = true) (h2 : evenReg rs2 = true) :
    exec (.udivd rd rs1 rs2) s =
      divideInto s (s.readPair rs2) (s.retire rd (udiv64 (s.readPair rs1) (s.readPair rs2))
        s.icc) := by
  rw [exec, execUdivd, onPairs_even s _ hd h1 h2]

theorem exec_udivdcc_even {rd rs1 rs2 : RegNum} (s : State)
    (hd : evenReg rd = true) (h1 : evenReg rs1 = true) (h2 : evenReg rs2 = true) :
    exec (.udivdcc rd rs1 rs2) s =
      divideInto s (s.readPair rs2) (s.retire rd (udiv64 (s.readPair rs1) (s.readPair rs2))
        (iccUdivdcc s (udiv64 (s.readPair rs1) (s.readPair rs2)))) := by
  rw [exec, execUdivdcc, onPairs_even s _ hd h1 h2]

theorem exec_sdivd_even {rd rs1 rs2 : RegNum} (s : State)
    (hd : evenReg rd = true) (h1 : evenReg rs1 = true) (h2 : evenReg rs2 = true) :
    exec (.sdivd rd rs1 rs2) s =
      divideInto s (s.readPair rs2) (s.retire rd (sdivQuotient s (s.readPair rs1) (s.readPair rs2))
        s.icc) := by
  rw [exec, execSdivd, onPairs_even s _ hd h1 h2]

theorem exec_sdivdcc_even {rd rs1 rs2 : RegNum} (s : State)
    (hd : evenReg rd = true) (h1 : evenReg rs1 = true) (h2 : evenReg rs2 = true) :
    exec (.sdivdcc rd rs1 rs2) s =
      divideInto s (s.readPair rs2) (s.retire rd (sdivQuotient s (s.readPair rs1) (s.readPair rs2))
        (iccSdivdcc s (sdivQuotient s (s.readPair rs1) (s.readPair rs2))
          (sdivOverflows (s.readPair rs1) (s.readPair rs2)))) := by
  rw [exec, execSdivdcc, onPairs_even s _ hd h1 h2]

/-- What an instruction that has a next state can do: raise division_by_zero, or go through its last stage with
some result and some condition codes. -/
theorem exec_next_cases {i : Instr} {s t : State} (h : exec i s = .next t) :
    i.wellFormed = true ∧
    ((i.isDivide = true ∧ s.readPair i.rs2 = 0#64 ∧ t = s.raiseTrap 0x2A#8) ∨
      (¬(i.isDivide = true ∧ s.readPair i.rs2 = 0#64) ∧ ∃ (v : DWord) (c : Icc), t = s.retire i.rd v c)) := by
  cases i
  all_goals
    simp only [exec, execUmuld, execUmuldcc, execSmuld, execSmuldcc, execUdivd, execUdivdcc, execSdivd,
      execSdivdcc] at h
    obtain ⟨he, hk⟩ := onPairs_next h
    refine ⟨by simp [Instr.wellFormed, Instr.rd, Instr.rs1, Instr.rs2, he], ?_⟩
  case umuld | umuldcc | smuld | smuldcc =>
    exact .inr ⟨by simp [Instr.isDivide], _, _, by simpa using hk.symm⟩
  case udivd | udivdcc | sdivd | sdivdcc =>
    rcases divideInto_cases hk with ⟨hb, ht⟩ | ⟨hb, ht⟩
    · exact .inl ⟨rfl, hb, ht⟩
    · exact .inr ⟨fun hc => hb hc.2, _, _, ht⟩

/-- What a step that has a next state can do: the instruction that the word at pc decodes to. -/
theorem step_next_cases {s t : State} (h : step s = .next t) :
    s.status = .running ∧ ∃ (w : Word) (i : Instr), s.fetch = some w ∧ decode w = .instr i ∧ exec i s = .next t := by
  unfold step at h
  split at h
  · cases h
  · cases h
  · refine ⟨‹_›, ?_⟩
    split at h
    · cases h
    · rename_i w hw
      split at h
      · exact ⟨w, _, hw, ‹_›, h⟩
      · cases h
      · rename_i hd
        exfalso
        unfold decode decodeWith decodeOperands at hd
        simp only [params] at hd
        repeat' split at hd
        all_goals cases hd

/-! ## The run on the state tuple -/

theorem State.runStep_next {s t : State} (h : step s = .next t) : s.runStep = t := by
  simp [State.runStep, h]

theorem State.runStep_fault {s : State} {f : Fault} (h : step s = .fault f) : s.runStep = s := by
  simp [State.runStep, h]

theorem State.runStep_refused {s : State} {q : RefuseReason} (h : step s = .refused (.noMeaning q)) :
    s.runStep = s.markRefused q := by
  simp [State.runStep, h]

@[simp] theorem State.runFor_zero (s : State) : s.runFor 0 = s := rfl

@[simp] theorem State.runFor_succ (s : State) (n : Nat) : s.runFor (n + 1) = s.runStep.runFor n := rfl

end Sys2Proof.Machine
end

