-- ==== Sys2Proof/Laws/PerInstr.lean ====
section
/-! SUPPORT. Per-instruction families: one lemma for each constructor of `Instr`. -/

namespace Sys2Proof.Laws

/-- The pattern test of rule R51 reads from an instruction's word that instruction, whatever its register
numbers, and finds its unused bits zero (rules R46, R48, R49). -/
def MatchesItself.Statement (i : Instr) : Prop :=
  matchInstr (encode i) = some i ∧ unusedField (encode i) = 0#7

theorem MatchesItself.umuld (rd rs1 rs2 : RegNum) : MatchesItself.Statement (.umuld rd rs1 rs2) := by
  simp [MatchesItself.Statement, matchInstr, encode, instrOfOp3, op3Of, Instr.rd, Instr.rs1, Instr.rs2]

theorem MatchesItself.umuldcc (rd rs1 rs2 : RegNum) : MatchesItself.Statement (.umuldcc rd rs1 rs2) := by
  simp [MatchesItself.Statement, matchInstr, encode, instrOfOp3, op3Of, Instr.rd, Instr.rs1, Instr.rs2]

theorem MatchesItself.smuld (rd rs1 rs2 : RegNum) : MatchesItself.Statement (.smuld rd rs1 rs2) := by
  simp [MatchesItself.Statement, matchInstr, encode, instrOfOp3, op3Of, Instr.rd, Instr.rs1, Instr.rs2]

theorem MatchesItself.smuldcc (rd rs1 rs2 : RegNum) : MatchesItself.Statement (.smuldcc rd rs1 rs2) := by
  simp [MatchesItself.Statement, matchInstr, encode, instrOfOp3, op3Of, Instr.rd, Instr.rs1, Instr.rs2]

theorem MatchesItself.udivd (rd rs1 rs2 : RegNum) : MatchesItself.Statement (.udivd rd rs1 rs2) := by
  simp [MatchesItself.Statement, matchInstr, encode, instrOfOp3, op3Of, Instr.rd, Instr.rs1, Instr.rs2]

theorem MatchesItself.udivdcc (rd rs1 rs2 : RegNum) : MatchesItself.Statement (.udivdcc rd rs1 rs2) := by
  simp [MatchesItself.Statement, matchInstr, encode, instrOfOp3, op3Of, Instr.rd, Instr.rs1, Instr.rs2]

theorem MatchesItself.sdivd (rd rs1 rs2 : RegNum) : MatchesItself.Statement (.sdivd rd rs1 rs2) := by
  simp [MatchesItself.Statement, matchInstr, encode, instrOfOp3, op3Of, Instr.rd, Instr.rs1, Instr.rs2]

theorem MatchesItself.sdivdcc (rd rs1 rs2 : RegNum) : MatchesItself.Statement (.sdivdcc rd rs1 rs2) := by
  simp [MatchesItself.Statement, matchInstr, encode, instrOfOp3, op3Of, Instr.rd, Instr.rs1, Instr.rs2]

end Sys2Proof.Laws
end

