-- ==== Sys2Proof/Tests/Slice0.lean ====
section
/-! SUPPORT. The model's own tests. Expected values are those of 95_test_vectors.md (the vector's name stands in each
comment) or written out from 30_encoding.md. The `witness_` theorems show states and operands that meet the
hypotheses of the statement they name. -/

namespace Sys2Proof.Tests

open Sys2Proof.Machine

/-! ## Well-formedness: one ill-formed term for each check -/

theorem test_wellFormed_even : (Instr.umuld 6 2 4).wellFormed = true := by decide

theorem test_illFormed_rd : (Instr.umuld 7 2 4).wellFormed = false := by decide

theorem test_illFormed_rs1 : (Instr.sdivdcc 6 3 4).wellFormed = false := by decide

theorem test_illFormed_rs2 : (Instr.udivd 30 30 31).wellFormed = false := by decide

/-! ## Decoding: a word for each constructor, op ++ rd ++ op3 ++ rs1 ++ i ++ unused ++ AJIT ++ rs2 of V1 to V8 -/

theorem test_decode_umuld : decode 0b10_00110_001010_00010_0_0000000_1_00100#32 = .instr (.umuld 6 2 4) := by decide

theorem test_decode_umuldcc : decode 0b10_01000_011010_10000_0_0000000_1_10010#32 = .instr (.umuldcc 8 16 18) := by
  decide

theorem test_decode_smuld : decode 0b10_01010_001011_00010_0_0000000_1_00100#32 = .instr (.smuld 10 2 4) := by decide

theorem test_decode_smuldcc : decode 0b10_10100_011011_11000_0_0000000_1_11010#32 = .instr (.smuldcc 20 24 26) := by
  decide

theorem test_decode_udivd : decode 0b10_01000_001110_00110_0_0000000_1_00100#32 = .instr (.udivd 8 6 4) := by decide

theorem test_decode_udivdcc : decode 0b10_01100_011110_10000_0_0000000_1_10010#32 = .instr (.udivdcc 12 16 18) := by
  decide

theorem test_decode_sdivd : decode 0b10_00010_001111_00010_0_0000000_1_00100#32 = .instr (.sdivd 2 2 4) := by decide

theorem test_decode_sdivdcc : decode 0b10_11110_011111_11100_0_0000000_1_10110#32 = .instr (.sdivdcc 30 28 22) := by
  decide

/-- V1 to V8 and V10, V11 the other way. -/
theorem test_encode :
    encode (.umuld 6 2 4) = 0x8C508024#32 ∧ encode (.umuldcc 8 16 18) = 0x90D40032#32 ∧
    encode (.smuld 10 2 4) = 0x94588024#32 ∧ encode (.smuldcc 20 24 26) = 0xA8DE003A#32 ∧
    encode (.udivd 8 6 4) = 0x90718024#32 ∧ encode (.udivdcc 12 16 18) = 0x98F40032#32 ∧
    encode (.sdivd 2 2 4) = 0x84788024#32 ∧ encode (.sdivdcc 30 28 22) = 0xBCFF0036#32 ∧
    encode (.umuld 30 30 30) = 0xBC57803E#32 ∧ encode (.sdivdcc 30 30 30) = 0xBCFF803E#32 := by decide

/-- V14 to V24: each refusal beside its nearest accepted word. -/
theorem test_decode_refused :
    decode 0x8E508024#32 = .refuse .oddPairRegister ∧ decode 0x8C50C024#32 = .refuse .oddPairRegister ∧
    decode 0x8C508025#32 = .refuse .oddPairRegister ∧ decode 0x8C508064#32 = .refuse .unusedBitsNonzero ∧
    decode 0x8C509024#32 = .refuse .unusedBitsNonzero ∧ decode 0x8C508004#32 = .refuse .notInScope ∧
    decode 0x8C50A024#32 = .refuse .notInScope ∧ decode 0x8C008024#32 = .refuse .notInScope ∧
    decode 0xCC508024#32 = .refuse .notInScope ∧ decode 0x01000000#32 = .refuse .notInScope ∧
    decode 0x8C508065#32 = .refuse .unusedBitsNonzero := by decide

/-- The bytes of V1 at ascending addresses, 8C 50 80 24 (rule R32). -/
theorem test_decodeBytes : decodeBytes 0x8C#8 0x50#8 0x80#8 0x24#8 = .instr (.umuld 6 2 4) := by decide

theorem test_decodeTableWord :
    decodeTableWord 32 0x80500020 = some (.umuld 0 0 0) ∧ decodeTableWord 32 0x80D00020 = some (.umuldcc 0 0 0) ∧
    decodeTableWord 32 0x80580020 = some (.smuld 0 0 0) ∧ decodeTableWord 32 0x80D80020 = some (.smuldcc 0 0 0) ∧
    decodeTableWord 32 0x80700020 = some (.udivd 0 0 0) ∧ decodeTableWord 32 0x80F00020 = some (.udivdcc 0 0 0) ∧
    decodeTableWord 32 0x80780020 = some (.sdivd 0 0 0) ∧ decodeTableWord 32 0x80F80020 = some (.sdivdcc 0 0 0) := by
  decide

/-- The match words of rule R49 are what the macros of rule R50 build. -/
theorem test_matchWord :
    matchWord (.umuld 0 0 0) = 0x80500020#32 ∧ matchWord (.umuldcc 0 0 0) = 0x80D00020#32 ∧
    matchWord (.smuld 0 0 0) = 0x80580020#32 ∧ matchWord (.smuldcc 0 0 0) = 0x80D80020#32 ∧
    matchWord (.udivd 0 0 0) = 0x80700020#32 ∧ matchWord (.udivdcc 0 0 0) = 0x80F00020#32 ∧
    matchWord (.sdivd 0 0 0) = 0x80780020#32 ∧ matchWord (.sdivdcc 0 0 0) = 0x80F80020#32 := by decide

/-! ## Assembler syntax -/

/-- V1, and rule R57: `umuld` is no mnemonic here. -/
theorem test_asm :
    asmText (.umuld 6 2 4) = "umuldaj %g2, %g4, %g6" ∧ instrOfAsm ["umuldaj", "%g2", "%r4", "%g6"] = some (.umuld 6 2 4) ∧
    instrOfAsm ["umuld", "%g2", "%g4", "%g6"] = none := by decide

/-- The register names of rule R12. -/
theorem test_regNames :
    regOfName "%g7" = some 7 ∧ regOfName "%o0" = some 8 ∧ regOfName "%l0" = some 16 ∧ regOfName "%i7" = some 31 ∧
    regOfName "%sp" = regOfName "%o6" ∧ regOfName "%fp" = regOfName "%i6" ∧ regOfName "%r31" = some 31 := by decide

/-! ## One step of each instruction -/

/-- Reset with pair(2) = a, pair(4) = b and the word `w` at pc. -/
def withPairs (w : Nat) (a b : DWord) : State :=
  ((State.reset.writePair 2 a).writePair 4 b).withFetchWord 32 w

/-- One register after one step, where the step has a next state. -/
def regAfter (s : State) (r : RegNum) : Option Word :=
  match step s with
  | .next t => some (t.readReg r)
  | _ => none

/-- One flag after one step, where the step has a next state. -/
def flagAfter (s : State) (f : Icc → Bool) : Option Bool :=
  match step s with
  | .next t => some (f t.icc)
  | _ => none

/-- The run status after one step, where the step has a next state. -/
def statusAfter (s : State) : Option RunStatus :=
  match step s with
  | .next t => some t.status
  | _ => none

/-- M10 under `umuldaj %g2, %g4, %g6`. -/
theorem test_umuld_M10 :
    regAfter (withPairs 0x8C508024 0xDEADBEEF 0xCAFEBABE) 6 = some 0xB092AB7B#32 ∧
    regAfter (withPairs 0x8C508024 0xDEADBEEF 0xCAFEBABE) 7 = some 0x88CF5B62#32 := by decide

/-- X3: rd = 0 writes only register 1. -/
theorem test_umuld_X3 :
    regAfter (withPairs 0x80508024 0x0000000200000005 3) 1 = some 0xF#32 ∧
    regAfter (withPairs 0x80508024 0x0000000200000005 3) 0 = some 0#32 := by decide

/-- M8: the truncated product is zero, so Z = 1. -/
theorem test_umuldcc_M8 :
    flagAfter (withPairs 0x8CD08024 0x0000000100000000 0x0000000100000000) Icc.z = some true := by decide

/-- X4: Z tests the 64-bit result, not what pair(0) reads back. -/
theorem test_umuldcc_X4 :
    flagAfter (withPairs 0x80D08024 0x0000000100000000 1) Icc.z = some false ∧
    regAfter (withPairs 0x80D08024 0x0000000100000000 1) 1 = some 0#32 := by decide

/-- M14 under `smuld %g2, %g4, %o2`: −3 × 7 = −21. -/
theorem test_smuld_M14 :
    regAfter (withPairs 0x94588024 0xFFFFFFFFFFFFFFFD 7) 10 = some 0xFFFFFFFF#32 ∧
    regAfter (withPairs 0x94588024 0xFFFFFFFFFFFFFFFD 7) 11 = some 0xFFFFFFEB#32 := by decide

/-- M16: 2^62 × 2 overflows; N = 1, V = 1. -/
theorem test_smuldcc_M16 :
    flagAfter (withPairs 0x8CD88024 0x4000000000000000 2) Icc.v = some true ∧
    flagAfter (withPairs 0x8CD88024 0x4000000000000000 2) Icc.n = some true := by decide

/-- M17: −2^62 × 2 fits and has the same bits; V = 0. M19: a zero result with overflow. -/
theorem test_smuldcc_M17_M19 :
    flagAfter (withPairs 0x8CD88024 0xC000000000000000 2) Icc.v = some false ∧
    flagAfter (withPairs 0x8CD88024 0x8000000000000000 2) Icc.z = some true ∧
    flagAfter (withPairs 0x8CD88024 0x8000000000000000 2) Icc.v = some true := by decide

/-- Q10 unsigned, under `udivd %g2, %g4, %g6`. -/
theorem test_udivd_Q10 :
    regAfter (withPairs 0x8C708024 0xFFFFFFFFFFFFFFF9 2) 6 = some 0x7FFFFFFF#32 ∧
    regAfter (withPairs 0x8C708024 0xFFFFFFFFFFFFFFF9 2) 7 = some 0xFFFFFFFC#32 := by decide

/-- Q24: 0 ÷ 0 traps; Q21: a divisor with a zero low word does not. -/
theorem test_udivd_Q24_Q21 :
    statusAfter (withPairs 0x8C708024 0 0) = some (.trapped 0x2A#8) ∧
    regAfter (withPairs 0x8C708024 0xFFFFFFFFFFFFFFFF 0x0000000100000000) 7 = some 0xFFFFFFFF#32 := by decide

/-- Q5: 1 ÷ 2 = 0, Z = 1, V = 0. -/
theorem test_udivdcc_Q5 :
    flagAfter (withPairs 0x8CF08024 1 2) Icc.z = some true ∧ flagAfter (withPairs 0x8CF08024 1 2) Icc.v = some false := by
  decide

/-- Q12: −7 ÷ −2 = 3; Q11: 7 ÷ −2 = −3, toward zero. -/
theorem test_sdivd_Q12_Q11 :
    regAfter (withPairs 0x8C788024 0xFFFFFFFFFFFFFFF9 0xFFFFFFFFFFFFFFFE) 7 = some 3#32 ∧
    regAfter (withPairs 0x8C788024 7 0xFFFFFFFFFFFFFFFE) 7 = some 0xFFFFFFFD#32 := by decide

/-- X6: the dividend 0 ∥ x[1] is non-negative; 9 ÷ −3 = −3. -/
theorem test_sdivd_X6 :
    regAfter (((State.reset.writeReg 1 9).writePair 2 0xFFFFFFFFFFFFFFFD).withFetchWord 32 0x88780022) 5 =
      some 0xFFFFFFFD#32 := by decide

/-- Q16: max ÷ −1 fits, N = 1, V = 0. -/
theorem test_sdivdcc_Q16 :
    flagAfter (withPairs 0x8CF88024 0x7FFFFFFFFFFFFFFF 0xFFFFFFFFFFFFFFFF) Icc.n = some true ∧
    flagAfter (withPairs 0x8CF88024 0x7FFFFFFFFFFFFFFF 0xFFFFFFFFFFFFFFFF) Icc.v = some false := by decide

/-- Q15: −2^63 ÷ −1 completes with V = 1. -/
theorem test_sdivdcc_Q15 :
    flagAfter (withPairs 0x8CF88024 0x8000000000000000 0xFFFFFFFFFFFFFFFF) Icc.v = some true ∧
    statusAfter (withPairs 0x8CF88024 0x8000000000000000 0xFFFFFFFFFFFFFFFF) = some .running := by decide

/-- Program 3, step 2: the trap leaves pc at the divide and the destination as it was. -/
theorem test_trap_keeps_pc :
    ((withPairs 0x84F88024 5 0).runStep).pc = State.reset.pc ∧ ((withPairs 0x84F88024 5 0).runStep).readReg 3 = 5#32 ∧
    ((withPairs 0x84F88024 5 0).runFor 3).status = .trapped 0x2A#8 := by decide

/-- Program 4, step 2: the run is marked and nothing else changes. -/
theorem test_refusal_marks :
    ((withPairs 0x01000000 2 3).runStep).status = .refused .notInScope ∧
    ((withPairs 0x01000000 2 3).runStep).pc = State.reset.pc := by decide

/-- Nothing is placed at reset: the machine is stuck (rule R35). -/
theorem test_reset_stuck : (match step State.reset with | .fault .fetchNotAdmitted => true | _ => false) = true := by
  decide

/-- The other settings of the policies of rules R16 and R48. -/
theorem test_policies :
    decodeWith .clearBit0 .refuse 0x8E508024#32 = .instr (.umuld 6 2 4) ∧
    decodeWith .illegalInstruction .refuse 0x8E508024#32 = .illegal ∧
    decodeWith .refuse .ignore 0x8C508064#32 = .instr (.umuld 6 2 4) ∧
    decodeWith .refuse .illegalInstruction 0x8C508064#32 = .illegal := by decide

/-! ## Witnesses: the hypotheses of each statement, met together, at boundary values of each clause -/

theorem witness_DecodeOfEncodeIsTheInstruction :
    (Instr.umuld 0 0 0).wellFormed = true ∧ (Instr.sdivdcc 30 30 30).wellFormed = true := by decide

theorem witness_AcceptedWordIsItsEncoding :
    decode 0x80500020#32 = .instr (.umuld 0 0 0) ∧ decode 0xBCFF803E#32 = .instr (.sdivdcc 30 30 30) := by decide

/-- A word for each of the four clauses: V1, V17 with the lowest unused bit, V16, V19. -/
theorem witness_EveryWordIsSorted :
    (0x8C508024#32 &&& 0xC1F82020#32 = 0x80500020#32 ∧ 0x8C508024#32 &&& 0x1FC0#32 = 0#32 ∧
      0x8C508024#32 &&& 0x02004001#32 = 0#32) ∧
    (0x8C508064#32 &&& 0xC1F82020#32 = 0x80500020#32 ∧ 0x8C508064#32 &&& 0x1FC0#32 ≠ 0#32) ∧
    (0x8C508025#32 &&& 0xC1F82020#32 = 0x80500020#32 ∧ 0x8C508025#32 &&& 0x1FC0#32 = 0#32 ∧
      0x8C508025#32 &&& 0x02004001#32 ≠ 0#32) ∧
    0x8C508004#32 &&& 0xC1F82020#32 = 0x80500000#32 := by decide

theorem witness_FixedBitsOfEveryInstruction : decode 0x98F40032#32 = .instr (.udivdcc 12 16 18) := by decide

theorem witness_Op3SelectsTheInstruction : decode 0xA8DE003A#32 = .instr (.smuldcc 20 24 26) := by decide

theorem witness_MacrosBuildTheLayout :
    (Instr.udivd 8 6 4).wellFormed = true ∧ decode 0x90718024#32 = .instr (.udivd 8 6 4) := by decide

theorem witness_OddRegisterNumberIsRefused :
    (Instr.umuld 1 0 0).wellFormed = false ∧ (Instr.sdivdcc 30 31 30).wellFormed = false := by decide

theorem witness_UnusedBitsAreRefused : (1#7 : BitVec 7) ≠ 0#7 ∧ (64#7 : BitVec 7) ≠ 0#7 := by decide

theorem witness_PairReadAndWrite : evenReg 0 = true ∧ evenReg 30 = true ∧ (30#5 : RegNum) ≠ 0#5 := by decide

/-- Rules R71 and R73: even register numbers, rd = rs1 = rs2 and register 0 among them. -/
theorem witness_UmuldWritesTheLowProduct : evenReg 2 = true ∧ evenReg 0 = true := by decide

theorem witness_SmuldWritesTheLowSignedProduct : evenReg 30 = true ∧ evenReg 0 = true := by decide

theorem witness_SignedAndUnsignedMultiplyAgree : ∃ t, exec (.umuld 6 2 4) (withPairs 0 3 5) = .next t :=
  ⟨_, exec_umuld_even _ (by decide) (by decide) (by decide)⟩

theorem witness_UmuldccWritesTheLowProductAndZ :
    evenReg 0 = true ∧ evenReg 2 = true ∧ evenReg 4 = true ∧
    0#64 = BitVec.ofNat 64 (((withPairs 0 0x100000000 0x100000000).pairValue 2).toNat *
      ((withPairs 0 0x100000000 0x100000000).pairValue 4).toNat) := by decide

/-- M20: the product 2^63, one above the largest that fits. -/
theorem witness_SmuldccWritesTheLowSignedProductAndFlags :
    evenReg 6 = true ∧ evenReg 2 = true ∧ evenReg 4 = true ∧
    (2 : Int) ^ 63 = ((withPairs 0 0x8000000000000000 0xFFFFFFFFFFFFFFFF).pairValue 2).toInt *
      ((withPairs 0 0x8000000000000000 0xFFFFFFFFFFFFFFFF).pairValue 4).toInt := by decide

/-- Both clauses: a zero divisor pair, and the divisor 2^32 whose low word is zero. -/
theorem witness_UdivdWritesTheQuotient :
    evenReg 6 = true ∧ evenReg 2 = true ∧ evenReg 4 = true ∧ (withPairs 0 100 0).pairValue 4 = 0#64 ∧
    (withPairs 0 100 0x100000000).pairValue 4 ≠ 0#64 := by decide

theorem witness_UdivdccWritesTheQuotientAndFlags :
    evenReg 12 = true ∧ evenReg 2 = true ∧ evenReg 4 = true ∧ (withPairs 0 1 0).pairValue 4 = 0#64 ∧
    (withPairs 0 1 1).pairValue 4 ≠ 0#64 := by decide

/-- The three clauses: divisor 0; Q13, −2^63 ÷ 1; Q15, the overflow case. -/
theorem witness_SdivdWritesTheQuotient :
    evenReg 6 = true ∧ evenReg 2 = true ∧ evenReg 4 = true ∧
    0 = ((withPairs 0 7 0).pairValue 4).toInt ∧
    (-2 ^ 63 = ((withPairs 0 0x8000000000000000 1).pairValue 2).toInt ∧
      1 = ((withPairs 0 0x8000000000000000 1).pairValue 4).toInt) ∧
    (-2 ^ 63 = ((withPairs 0 0x8000000000000000 0xFFFFFFFFFFFFFFFF).pairValue 2).toInt ∧
      -1 = ((withPairs 0 0x8000000000000000 0xFFFFFFFFFFFFFFFF).pairValue 4).toInt) := by decide

theorem witness_SdivdccWritesTheQuotientAndFlags :
    evenReg 30 = true ∧ evenReg 2 = true ∧ evenReg 4 = true ∧
    0 = ((withPairs 0 0 0).pairValue 4).toInt ∧
    (-2 ^ 63 = ((withPairs 0 0x8000000000000000 2).pairValue 2).toInt ∧
      2 = ((withPairs 0 0x8000000000000000 2).pairValue 4).toInt) ∧
    (-2 ^ 63 = ((withPairs 0 0x8000000000000000 0xFFFFFFFFFFFFFFFF).pairValue 2).toInt ∧
      -1 = ((withPairs 0 0x8000000000000000 0xFFFFFFFFFFFFFFFF).pairValue 4).toInt) := by decide

/-- Both clauses: the whole pair zero, and only its even or only its odd register zero. -/
theorem witness_ZeroDivisorTrapsAndWritesNothing :
    (Instr.sdivd 6 2 4).wellFormed = true ∧ (Instr.sdivd 6 2 4).isDivide = true ∧
    ((withPairs 0 1 0).readReg 4 = 0#32 ∧ (withPairs 0 1 0).readReg 5 = 0#32) ∧
    (withPairs 0 1 1).readReg 5 ≠ 0#32 ∧ (withPairs 0 1 0x100000000).readReg 4 ≠ 0#32 := by decide

/-- The four sign clauses, the zero clause and the overflow clause. -/
theorem witness_MultiplyLaws :
    (smulOverflows 1 1 = false ∧ smulOverflows 1 (-1) = false ∧ smulOverflows (-1) 1 = false ∧
      smulOverflows (-1) (-1) = false) ∧
    (0 < (1#64).toInt ∧ (-1#64).toInt < 0) ∧
    ((0x8000000000000000#64).toInt = -2 ^ 63 ∧ (0xFFFFFFFFFFFFFFFF#64).toInt = -1) := by decide

/-- The signs, |a| < |b| and |b| ≤ |a|, and bit 63 clear. -/
theorem witness_DivideLaws :
    ((2#64 : DWord) ≠ 0#64 ∧ sdivOverflows 1 2 = false ∧ (1#64).toInt.natAbs < (2#64).toInt.natAbs) ∧
    (sdivOverflows 2 2 = false ∧ 0 < (2#64).toInt) ∧ (sdivOverflows (-2) 2 = false ∧ (-2#64).toInt < 0) ∧
    (sdivOverflows 2 (-2) = false ∧ sdivOverflows (-2) (-2) = false) ∧
    ((0x7FFFFFFFFFFFFFFF#64).getLsbD 63 = false ∧ (1#64).getLsbD 63 = false) := by decide

theorem witness_UdivdUndoesUmuld :
    evenReg 2 = true ∧ evenReg 4 = true ∧ evenReg 6 = true ∧ (6#5 : RegNum) ≠ 0#5 ∧ (2#5 : RegNum) ≠ 0#5 ∧
    (6#5 : RegNum) ≠ 4#5 ∧ (withPairs 0 0xDEADBEEF 0xCAFEBABE).pairValue 4 ≠ 0#64 ∧
    ((withPairs 0 0xDEADBEEF 0xCAFEBABE).pairValue 2).toNat * ((withPairs 0 0xDEADBEEF 0xCAFEBABE).pairValue 4).toNat <
      2 ^ 64 := by decide

/-- Two states that differ in another register, a flag and pc, and agree on the pairs read. -/
theorem witness_OnlyTheSourcePairsAreRead :
    ∃ s₁ s₂ t₁ : State, (Instr.umuldcc 6 2 4).wellFormed = true ∧ s₁.status = .running ∧ s₂.status = .running ∧
      s₁.pairValue 2 = s₂.pairValue 2 ∧ s₁.pairValue 4 = s₂.pairValue 4 ∧ s₁.draws = s₂.draws ∧
      s₁.readReg 8 ≠ s₂.readReg 8 ∧ exec (.umuldcc 6 2 4) s₁ = .next t₁ :=
  ⟨withPairs 0 3 5, { (withPairs 0 3 5).writeReg 8 1 with pc := 4 }, _, by decide, by decide, by decide, by decide,
    by decide, by decide, by decide, exec_umuldcc_even _ (by decide) (by decide) (by decide)⟩

/-- An instruction whose flags are drawn, and the overflow case, whose quotient is. -/
theorem witness_DrawsReachOnlyWhatIsLeftOpen :
    (∃ t, exec (.umuldcc 6 2 4) (withPairs 0 3 5) = .next t) ∧
    ∃ t, exec (.sdivdcc 6 2 4) (withPairs 0 0x8000000000000000 0xFFFFFFFFFFFFFFFF) = .next t :=
  ⟨⟨_, exec_umuldcc_even _ (by decide) (by decide) (by decide)⟩,
    ⟨_, (exec_sdivdcc_even _ (by decide) (by decide) (by decide)).trans (if_neg (by decide))⟩⟩

/-- Aligned with content, at address 0; not aligned; aligned without content. -/
theorem witness_WordReadIsBigEndian :
    Memory.readWord (withPairs 0x8C508024 3 5).mem 0#32 = some 0x8C508024#32 ∧
    Memory.readWord (withPairs 0x8C508024 3 5).mem 1#32 = none ∧
    Memory.readWord (withPairs 0x8C508024 3 5).mem 4#32 = none := by decide

theorem witness_StepRunsTheDecodedInstruction :
    (withPairs 0x8C508024 3 5).status = .running ∧ (withPairs 0x8C508024 3 5).pc.toNat % 4 = 0 ∧
    (withPairs 0x8C508024 3 5).readByte 0 = some 0x8C#8 ∧ (withPairs 0x8C508024 3 5).readByte 1 = some 0x50#8 ∧
    (withPairs 0x8C508024 3 5).readByte 2 = some 0x80#8 ∧ (withPairs 0x8C508024 3 5).readByte 3 = some 0x24#8 ∧
    decodeBytes 0x8C#8 0x50#8 0x80#8 0x24#8 = .instr (.umuld 6 2 4) := by decide

/-- Both clauses: a misaligned pc, and a byte without content. -/
theorem witness_FetchNotAdmittedIsStuck :
    ({ State.reset with pc := 2#32 }).status = .running ∧ ({ State.reset with pc := 2#32 }).pc.toNat % 4 ≠ 0 ∧
    State.reset.readByte (State.reset.pc.toNat + 3) = none := by decide

theorem witness_RefusedWordMarksTheRun :
    (withPairs 0x01000000 2 3).status = .running ∧ (withPairs 0x01000000 2 3).fetch = some 0x01000000#32 ∧
    decode 0x01000000#32 = .refuse .notInScope := by decide

theorem witness_StoppedRunNeverChanges :
    (State.reset.raiseTrap 0x2A).status ≠ .running ∧ (State.reset.markRefused .oddPairRegister).status ≠ .running := by
  decide

/-- The four outcomes, in the order of rule R95. -/
theorem witness_StepFollowsTheOrderOfEvents :
    (State.reset.status = .running ∧ State.reset.fetch = none) ∧
    ((withPairs 0x8C508025 2 3).status = .running ∧ (withPairs 0x8C508025 2 3).fetch = some 0x8C508025#32 ∧
      decode 0x8C508025#32 = .refuse .oddPairRegister) ∧
    ((withPairs 0x8C708024 2 0).fetch = some 0x8C708024#32 ∧ decode 0x8C708024#32 = .instr (.udivd 6 2 4) ∧
      (withPairs 0x8C708024 2 0).pairValue 4 = 0#64) ∧
    (withPairs 0x8C708024 2 1).pairValue 4 ≠ 0#64 := by decide

theorem witness_OnlyAZeroDivisorTraps :
    (∃ t, step (withPairs 0x8C708024 2 0) = .next t ∧ t.status = .trapped 0x2A#8) ∧
    decodeWith .illegalInstruction .refuse 0x8E508024#32 = .illegal :=
  ⟨⟨_, rfl, rfl⟩, by decide⟩

theorem witness_EveryStepKeepsTheInvariant :
    ∃ t, (withPairs 0x8C508024 3 5).Inv ∧ step (withPairs 0x8C508024 3 5) = .next t :=
  ⟨_, by unfold State.Inv; decide, rfl⟩

/-- One instruction completed from a launch state at entry 0; k = 0 is met by the launch state itself. -/
theorem witness_RunIsStraightLine :
    ∃ t, (withPairs 0x8C508024 3 5).LaunchedAt 0#32 ∧
      Host.Core.run Sys2Proof.core 1 (withPairs 0x8C508024 3 5) = .next t ∧ t.status = .running :=
  ⟨_, by unfold State.LaunchedAt; decide, rfl, rfl⟩

theorem witness_PlacedWordIsRunNext :
    State.reset.mem.wf ∧ State.reset.pc.toNat % 4 = 0 ∧ (Instr.sdivdcc 30 28 22).wellFormed = true := by decide

end Sys2Proof.Tests
end

/-! PROOFS. The statements about the state of the machine: register 0 (R11), pairs (R14, R15), odd register numbers
(R16) and the run status (R25), with the lemmas they are assembled from. -/

namespace Sys2Proof

/-! ## Register numbers with bit 0 cleared, and instructions with mapped register numbers (rule R16) -/

@[simp] theorem evenReg_clearBit0 (r : RegNum) : evenReg (clearBit0 r) = true := by
  revert r; decide

theorem toNat_clearBit0 (r : RegNum) : (clearBit0 r).toNat = 2 * (r.toNat / 2) := by
  revert r; decide

@[simp] theorem Instr.mapRegs_rd (f : RegNum → RegNum) (i : Instr) : (i.mapRegs f).rd = f i.rd := by
  cases i <;> rfl

@[simp] theorem Instr.mapRegs_rs1 (f : RegNum → RegNum) (i : Instr) : (i.mapRegs f).rs1 = f i.rs1 := by
  cases i <;> rfl

@[simp] theorem Instr.mapRegs_rs2 (f : RegNum → RegNum) (i : Instr) : (i.mapRegs f).rs2 = f i.rs2 := by
  cases i <;> rfl

@[simp] theorem op3Of_mapRegs (f : RegNum → RegNum) (i : Instr) : op3Of (i.mapRegs f) = op3Of i := by
  cases i <;> rfl

theorem Instr.wellFormed_iff (i : Instr) :
    i.wellFormed = true ↔ evenReg i.rd = true ∧ evenReg i.rs1 = true ∧ evenReg i.rs2 = true := by
  simp [Instr.wellFormed, and_assoc]

theorem Instr.wellFormed_mapRegs_clearBit0 (i : Instr) : (i.mapRegs clearBit0).wellFormed = true := by
  simp [Instr.wellFormed_iff]

/-! ## The decoder on an instruction's own word -/

theorem matchesItself (i : Instr) : Laws.MatchesItself.Statement i := by
  cases i with
  | umuld rd rs1 rs2 => exact Laws.MatchesItself.umuld rd rs1 rs2
  | umuldcc rd rs1 rs2 => exact Laws.MatchesItself.umuldcc rd rs1 rs2
  | smuld rd rs1 rs2 => exact Laws.MatchesItself.smuld rd rs1 rs2
  | smuldcc rd rs1 rs2 => exact Laws.MatchesItself.smuldcc rd rs1 rs2
  | udivd rd rs1 rs2 => exact Laws.MatchesItself.udivd rd rs1 rs2
  | udivdcc rd rs1 rs2 => exact Laws.MatchesItself.udivdcc rd rs1 rs2
  | sdivd rd rs1 rs2 => exact Laws.MatchesItself.sdivd rd rs1 rs2
  | sdivdcc rd rs1 rs2 => exact Laws.MatchesItself.sdivdcc rd rs1 rs2

@[simp] theorem matchInstr_encode (i : Instr) : matchInstr (encode i) = some i := (matchesItself i).1

@[simp] theorem unusedField_encode (i : Instr) : unusedField (encode i) = 0#7 := (matchesItself i).2

/-- Of an instruction's own word only the test for odd register numbers is left, whatever the policies. -/
theorem decodeWith_encode (odd : OddPairPolicy) (unused : UnusedBitsPolicy) (i : Instr) :
    decodeWith odd unused (encode i) = decodeOperands odd i := by
  simp [decodeWith]

theorem decode_encode (i : Instr) : decode (encode i) = decodeOperands .refuse i :=
  decodeWith_encode _ _ i

section IllFormed
variable {i : Instr} (h : i.wellFormed = false)
include h

theorem decodeOperands_refuse_of_illFormed : decodeOperands .refuse i = .refuse .oddPairRegister := by
  simp [decodeOperands, h]

theorem decodeOperands_illegal_of_illFormed : decodeOperands .illegalInstruction i = .illegal := by
  simp [decodeOperands, h]

theorem decodeOperands_clearBit0_of_illFormed :
    decodeOperands .clearBit0 i = .instr (i.mapRegs clearBit0) := by
  simp [decodeOperands, h]

end IllFormed
end Sys2Proof

namespace Sys2Proof.Machine

/-! ## Odd register numbers in the meanings (rule R16) -/

/-- Operand assembly for an instruction with an odd register number. -/
theorem onPairs_of_not_wellFormed {rd rs1 rs2 : RegNum} (s : State) (k : DWord → DWord → Result)
    (h : ¬(evenReg rd = true ∧ evenReg rs1 = true ∧ evenReg rs2 = true)) :
    onPairs rd rs1 rs2 s k = .refused (.noMeaning .oddPairRegister) :=
  if_neg h

/-- Every meaning begins with operand assembly on the instruction's three register numbers. -/
theorem exec_of_illFormed {i : Instr} (h : i.wellFormed = false) (s : State) :
    exec i s = .refused (.noMeaning .oddPairRegister) := by
  have hodd : ¬(evenReg i.rd = true ∧ evenReg i.rs1 = true ∧ evenReg i.rs2 = true) := by
    rw [← Instr.wellFormed_iff, h]; exact Bool.false_ne_true
  cases i with
  | umuld | umuldcc | smuld | smuldcc | udivd | udivdcc | sdivd | sdivdcc =>
    simp only [exec, execUmuld, execUmuldcc, execSmuld, execSmuldcc, execUdivd, execUdivdcc, execSdivd, execSdivdcc]
    exact onPairs_of_not_wellFormed s _ hodd

/-- Settles O8: an instruction's word always passes the pattern test and the unused bits, so the decoder's answer is
that of the test for odd register numbers, which every meaning makes once more before it reads a pair. -/
theorem oddRegisterNumberIsRefused : Obligations.OddRegisterNumberIsRefused := by
  intro i h
  refine ⟨?decoder, exec_of_illFormed h, fun u => ⟨?illegal, i.mapRegs clearBit0, ?cleared,
    i.wellFormed_mapRegs_clearBit0, op3Of_mapRegs _ i, ?rd, ?rs1, ?rs2⟩⟩
  case decoder => rw [decode_encode, decodeOperands_refuse_of_illFormed h]
  case illegal => rw [decodeWith_encode, decodeOperands_illegal_of_illFormed h]
  case cleared => rw [decodeWith_encode, decodeOperands_clearBit0_of_illFormed h]
  case rd => rw [Instr.mapRegs_rd, toNat_clearBit0]
  case rs1 => rw [Instr.mapRegs_rs1, toNat_clearBit0]
  case rs2 => rw [Instr.mapRegs_rs2, toNat_clearBit0]

/-! ## Pairs (rules R14, R15) -/

theorem State.readPair_highHalf (s : State) (n : RegNum) :
    (s.readPair n).extractLsb' 32 32 = s.readReg n := by
  rw [State.readPair_eq, BitVec.extractLsb'_append_eq_left]

theorem State.readPair_lowHalf (s : State) (n : RegNum) :
    (s.readPair n).extractLsb' 0 32 = s.readReg (n + 1#5) := by
  rw [State.readPair_eq, BitVec.extractLsb'_append_eq_right]

theorem halves_append (v : DWord) : v.extractLsb' 32 32 ++ v.extractLsb' 0 32 = v := by
  rw [BitVec.extractLsb'_append_extractLsb'_eq_extractLsb' (start₂ := 32) rfl]
  exact BitVec.extractLsb'_eq_self

section WritePair
variable (s : State) {n : RegNum} (v : DWord) (h : evenReg n = true)
include h

theorem State.readReg_writePair_even (hn : n ≠ 0#5) :
    (s.writePair n v).readReg n = v.extractLsb' 32 32 := by
  rw [State.readReg_writePair s n v h, if_neg (succ_ne_self n).symm, if_pos ⟨rfl, hn⟩]

theorem State.readReg_writePair_odd : (s.writePair n v).readReg (n + 1#5) = v.extractLsb' 0 32 := by
  rw [State.readReg_writePair s n v h, if_pos rfl]

theorem State.readReg_writePair_other {r : RegNum} (hr : r ≠ n) (hr' : r ≠ n + 1#5) :
    (s.writePair n v).readReg r = s.readReg r := by
  rw [State.readReg_writePair s n v h, if_neg hr', if_neg fun hc => hr hc.1]

theorem State.writePair_holdsPair : (s.writePair n v).HoldsPair n v :=
  ⟨s.readReg_writePair_even v h, s.readReg_writePair_odd v h, State.readReg_zero _⟩

/-- A pair other than pair 0, whose high half is discarded, reads back what was written. -/
theorem State.readPair_writePair (hn : n ≠ 0#5) : (s.writePair n v).readPair n = v := by
  rw [State.readPair_eq, s.readReg_writePair_even v h hn, s.readReg_writePair_odd v h, halves_append]

end WritePair

/-- Settles O13: the halves of a pair read, what a pair write leaves in every register, and the fields it leaves. -/
theorem pairReadAndWrite : Obligations.PairReadAndWrite := by
  intro s n v h
  exact ⟨s.readPair_eq n, s.readPair_highHalf n, s.readPair_lowHalf n, s.writePair_holdsPair v h,
    s.readPair_writePair v h, fun _ => s.readReg_writePair_other v h, s.writePair_icc n v, s.writePair_pc n v,
    s.writePair_npc n v, s.writePair_status n v, s.writePair_mem n v⟩

/-! ## Register 0 and pair 0 (rule R11) -/

/-- A write to pair 0 changes register 1 alone: register 0 is none of the registers it could change. -/
theorem State.readReg_writePair_zero_other (s : State) (v : DWord) {r : RegNum} (hr : r ≠ 1#5) :
    (s.writePair 0#5 v).readReg r = s.readReg r := by
  by_cases hz : r = 0#5
  · rw [hz, State.readReg_zero, State.readReg_zero]
  · exact s.readReg_writePair_other v rfl hz hr

/-- Settles O12: the rules for register 0, and those for pairs at the pair that it names. -/
theorem registerZeroIsHardwired : Obligations.RegisterZeroIsHardwired := by
  intro s v p
  exact ⟨s.readReg_zero, s.writeReg_zero v, State.readReg_zero _, s.readPair_eq 0#5,
    s.readReg_writePair_odd p rfl, fun _ => s.readReg_writePair_zero_other p⟩

/-! ## Stopped runs (rule R25) -/

theorem step_of_trapped {s : State} {tt : BitVec 8} (h : s.status = .trapped tt) :
    step s = .fault (.stoppedByTrap tt) := by
  simp [step, h]

theorem step_of_refused {s : State} {q : RefuseReason} (h : s.status = .refused q) :
    step s = .refused (.noMeaning q) := by
  simp [step, h]

/-- Setting the mark that stands already changes nothing. -/
theorem State.markRefused_of_refused {s : State} {q : RefuseReason} (h : s.status = .refused q) :
    s.markRefused q = s := by
  rw [State.markRefused, ← h]

theorem step_ne_next_of_stopped {s : State} (h : s.status ≠ .running) (t : State) : step s ≠ .next t :=
  fun hs => h (step_next_cases hs).1

theorem State.runStep_of_stopped {s : State} (h : s.status ≠ .running) : s.runStep = s := by
  cases hs : s.status with
  | running => exact absurd hs h
  | trapped tt => exact State.runStep_fault (step_of_trapped hs)
  | refused q => rw [State.runStep_refused (step_of_refused hs), State.markRefused_of_refused hs]

/-- A state that one step of the run leaves is left by every number of steps. -/
theorem State.runFor_of_runStep_eq {s : State} (h : s.runStep = s) (n : Nat) : s.runFor n = s := by
  induction n with
  | zero => rfl
  | succ n ih => rw [State.runFor_succ, h, ih]

/-- Settles O33: a step is only taken by a running state, and each stopped status makes the run stay where it is. -/
theorem stoppedRunNeverChanges : Obligations.StoppedRunNeverChanges := by
  intro s h
  exact ⟨step_ne_next_of_stopped h, State.runFor_of_runStep_eq (State.runStep_of_stopped h),
    fun _ _ hover => h hover.1⟩

end Sys2Proof.Machine

/-! PROOFS. The statement about memory: the program text is fixed for the whole run (R41). -/

namespace Sys2Proof.Machine

/-! ## No instruction stores (rule R34): the memory along an instruction, a step and a run -/

/-- Neither way for an instruction to have a next state, the trap and the last stage, writes memory. -/
theorem exec_next_mem {i : Instr} {s t : State} (h : exec i s = .next t) : t.mem = s.mem := by
  obtain ⟨-, ⟨-, -, rfl⟩ | ⟨-, v, c, rfl⟩⟩ := exec_next_cases h
  · exact s.raiseTrap_mem _
  · exact s.retire_mem i.rd v c

theorem step_next_mem {s t : State} (h : step s = .next t) : t.mem = s.mem := by
  obtain ⟨-, w, i, -, -, hexec⟩ := step_next_cases h
  exact exec_next_mem hexec

theorem State.runStep_notModelled {s : State} {m : String} (h : step s = .refused (.notModelled m)) :
    s.runStep = s := by
  simp [State.runStep, h]

@[simp] theorem State.runStep_mem (s : State) : s.runStep.mem = s.mem := by
  cases h : step s with
  | next t => rw [State.runStep_next h, step_next_mem h]
  | fault f => rw [State.runStep_fault h]
  | refused r =>
    cases r with
    | notModelled m => rw [State.runStep_notModelled h]
    | noMeaning q => rw [State.runStep_refused h, State.markRefused_mem]

@[simp] theorem State.runFor_mem (s : State) (n : Nat) : (s.runFor n).mem = s.mem := by
  induction n generalizing s with
  | zero => rfl
  | succ n ih => rw [State.runFor_succ, ih, State.runStep_mem]

/-- A byte read looks at the memory alone. -/
theorem State.readByte_congr {s t : State} (h : s.mem = t.mem) (a : Nat) : s.readByte a = t.readByte a := by
  rw [State.readByte, State.readByte, h]

/-- Settles O40: the run keeps the memory, by induction on its length, whatever each step answers. -/
theorem programTextNeverChanges : Obligations.ProgramTextNeverChanges := by
  intro s n a
  exact State.readByte_congr (s.runFor_mem n) a

end Sys2Proof.Machine

/-! PROOFS. The statements about the encoding: the fixed bits (R47), the unused bits (R48) and the sorting of all words
(R55), with the laws of the decoder they are assembled from. -/

namespace Sys2Proof

/-! ## The opcode map (rule R49) -/

/-- The op3 column of rule R49. -/
def op3Values : List (BitVec 6) := [0x0A#6, 0x1A#6, 0x0B#6, 0x1B#6, 0x0E#6, 0x1E#6, 0x0F#6, 0x1F#6]

theorem instrOfOp3_fields (i : Instr) : instrOfOp3 (op3Of i) i.rd i.rs1 i.rs2 = some i := by
  cases i <;> rfl

theorem instrOfOp3_eq_some_iff {op3 : BitVec 6} {rd rs1 rs2 : RegNum} {i : Instr} :
    instrOfOp3 op3 rd rs1 rs2 = some i ↔ op3Of i = op3 ∧ i.rd = rd ∧ i.rs1 = rs1 ∧ i.rs2 = rs2 := by
  constructor
  · intro h
    unfold instrOfOp3 at h
    split_ifs at h with h3 h3 h3 h3 h3 h3 h3 h3
    all_goals
      cases h
      exact ⟨h3.symm, rfl, rfl, rfl⟩
  · rintro ⟨rfl, rfl, rfl, rfl⟩
    exact instrOfOp3_fields i

theorem op3Of_mem_op3Values (i : Instr) : op3Of i ∈ op3Values := by
  cases i <;> simp [op3Of, op3Values]

theorem exists_instrOfOp3_iff {op3 : BitVec 6} {rd rs1 rs2 : RegNum} :
    (∃ i, instrOfOp3 op3 rd rs1 rs2 = some i) ↔ op3 ∈ op3Values := by
  constructor
  · rintro ⟨i, h⟩
    rw [← (instrOfOp3_eq_some_iff.mp h).1]
    exact op3Of_mem_op3Values i
  · intro h
    simp only [op3Values, List.mem_cons, List.not_mem_nil, or_false] at h
    rcases h with rfl | rfl | rfl | rfl | rfl | rfl | rfl | rfl <;> exact ⟨_, rfl⟩

/-! ## The pattern test (rule R51) -/

theorem matchInstr_eq_some_iff {w : Word} {i : Instr} :
    matchInstr w = some i ↔ (opField w = 0b10#2 ∧ iField w = 0#1 ∧ ajitField w = 1#1) ∧
      op3Of i = op3Field w ∧ i.rd = rdField w ∧ i.rs1 = rs1Field w ∧ i.rs2 = rs2Field w := by
  rw [matchInstr, Option.ite_none_right_eq_some, instrOfOp3_eq_some_iff]

theorem exists_matchInstr_iff {w : Word} :
    (∃ i, matchInstr w = some i) ↔
      (opField w = 0b10#2 ∧ iField w = 0#1 ∧ ajitField w = 1#1) ∧ op3Field w ∈ op3Values := by
  simp only [matchInstr, Option.ite_none_right_eq_some, exists_and_left, exists_instrOfOp3_iff]

/-- Of the words that an instruction's pattern test passes, only its own word has zeros in the unused bits. -/
theorem encode_of_matchInstr {w : Word} {i : Instr} (hm : matchInstr w = some i) (hu : unusedField w = 0#7) :
    encode i = w := by
  obtain ⟨⟨hop, hi, ha⟩, hop3, hrd, hrs1, hrs2⟩ := matchInstr_eq_some_iff.mp hm
  rw [encode, hop3, hrd, hrs1, hrs2, layoutF4_fields w hop hi hu ha]

/-! ## The answers of the decoder under the policies of rule R4 -/

theorem decode_of_matchInstr_none {w : Word} (h : matchInstr w = none) : decode w = .refuse .notInScope := by
  simp [decode, decodeWith, h]

section Matched
variable {w : Word} {i : Instr} (hm : matchInstr w = some i)
include hm

theorem decodeWith_illegal_of_unused (odd : OddPairPolicy) (hu : unusedField w ≠ 0#7) :
    decodeWith odd .illegalInstruction w = .illegal := by
  simp [decodeWith, hm, hu]

theorem decodeWith_ignore_of_matchInstr (odd : OddPairPolicy) : decodeWith odd .ignore w = decodeOperands odd i := by
  simp [decodeWith, hm]

theorem decode_of_unused (hu : unusedField w ≠ 0#7) : decode w = .refuse .unusedBitsNonzero := by
  simp [decode, decodeWith, hm, hu, Machine.params]

theorem decode_of_illFormed (hu : unusedField w = 0#7) (hwf : i.wellFormed = false) :
    decode w = .refuse .oddPairRegister := by
  rw [← encode_of_matchInstr hm hu, decode_encode, decodeOperands_refuse_of_illFormed hwf]

end Matched

theorem decode_encode_of_wellFormed {i : Instr} (hwf : i.wellFormed = true) : decode (encode i) = .instr i := by
  rw [decode_encode, decodeOperands, if_pos hwf]

/-- The decoder accepts the words of the well-formed instructions and no others. -/
theorem decode_eq_instr_iff {w : Word} {i : Instr} :
    decode w = .instr i ↔ i.wellFormed = true ∧ encode i = w := by
  constructor
  · intro h
    cases hm : matchInstr w with
    | none => simp [decode_of_matchInstr_none hm] at h
    | some j =>
      by_cases hu : unusedField w = 0#7
      · cases hwf : j.wellFormed with
        | false => simp [decode_of_illFormed hm hu hwf] at h
        | true =>
          have henc := encode_of_matchInstr hm hu
          rw [← henc, decode_encode_of_wellFormed hwf] at h
          cases h
          exact ⟨hwf, henc⟩
      · simp [decode_of_unused hm hu] at h
  · rintro ⟨hwf, rfl⟩
    exact decode_encode_of_wellFormed hwf

/-! ## The fixed bits (rule R47) -/

theorem iField_eq_zero_iff (w : Word) : iField w = 0#1 ↔ w.getLsbD 13 = false := by
  simp [iField, BitVec.eq_of_getLsbD_eq_iff]

theorem ajitField_eq_one_iff (w : Word) : ajitField w = 1#1 ↔ w.getLsbD 5 = true := by
  simp [ajitField, BitVec.eq_of_getLsbD_eq_iff]

theorem encode_fixedBits (i : Instr) :
    (encode i).extractLsb' 30 2 = 0b10#2 ∧ (encode i).getLsbD 13 = false ∧ (encode i).getLsbD 5 = true :=
  ⟨opField_layoutF4 .., (iField_eq_zero_iff _).mp (iField_layoutF4 ..),
    (ajitField_eq_one_iff _).mp (ajitField_layoutF4 ..)⟩

/-- Settles O4: the fields of the layout, which every accepted word has because it is the encoding of what it decodes
to. -/
theorem fixedBitsOfEveryInstruction : Obligations.FixedBitsOfEveryInstruction := by
  refine ⟨encode_fixedBits, fun w i h => ?_⟩
  obtain ⟨-, rfl⟩ := decode_eq_instr_iff.mp h
  exact encode_fixedBits i

/-! ## Setting unused bits (rule R48) -/

section OrUnused
variable (w : Word) (u : BitVec 7)

/-- A field that lies below or above bits 12:6 does not see them. -/
theorem extractLsb'_or_unused (k n : Nat) (h : k + n ≤ 6 ∨ 13 ≤ k) :
    (w ||| (u.setWidth 32 <<< 6)).extractLsb' k n = w.extractLsb' k n := by
  ext j hj
  have hu : (u.setWidth 32 <<< 6).getLsbD (k + j) = false := by
    rw [BitVec.getLsbD_shiftLeft, BitVec.getLsbD_setWidth]
    rcases h with hlow | hhigh
    · simp [show k + j < 6 by omega]
    · simp [BitVec.getLsbD_of_ge u (k + j - 6) (by omega)]
  simp [hu]

theorem unusedField_or_unused : unusedField (w ||| (u.setWidth 32 <<< 6)) = unusedField w ||| u := by
  ext j hj
  have hword : 6 + j < 32 ∧ j < 32 := by omega
  simp [unusedField, ← BitVec.getLsbD_eq_getElem, hj, hword]

theorem matchInstr_or_unused : matchInstr (w ||| (u.setWidth 32 <<< 6)) = matchInstr w := by
  ext i
  simp [matchInstr_eq_some_iff, opField, iField, ajitField, op3Field, rdField, rs1Field, rs2Field,
    extractLsb'_or_unused]

end OrUnused

/-- Settles O9: setting unused bits leaves the pattern test as it is and makes the unused field the value set, so the
policy for unused bits alone decides the answer. -/
theorem unusedBitsAreRefused : Obligations.UnusedBitsAreRefused := by
  intro i u
  have hm : matchInstr (encode i ||| (u.setWidth 32 <<< 6)) = some i := by
    rw [matchInstr_or_unused, matchInstr_encode]
  have hfield : unusedField (encode i ||| (u.setWidth 32 <<< 6)) = u := by
    rw [unusedField_or_unused, unusedField_encode, BitVec.zero_or]
  refine ⟨unusedField_encode i, fun hu => ?_⟩
  rw [← hfield] at hu
  refine ⟨decode_of_unused hm hu, fun p => ⟨decodeWith_illegal_of_unused hm p hu, ?_⟩⟩
  rw [decodeWith_ignore_of_matchInstr hm, decodeWith_encode]

/-! ## The masks of rule R55, read field by field -/

theorem bitVec_append_inj {m n : Nat} {x x' : BitVec m} {y y' : BitVec n} :
    x ++ y = x' ++ y' ↔ x = x' ∧ y = y' := by
  refine ⟨fun h => ⟨?_, ?_⟩, fun ⟨hx, hy⟩ => by rw [hx, hy]⟩
  · simpa only [BitVec.extractLsb'_append_eq_left] using congrArg (BitVec.extractLsb' n m) h
  · simpa only [BitVec.extractLsb'_append_eq_right] using congrArg (BitVec.extractLsb' 0 n) h

/-- Any word, put together from its eight fields (rule R46). -/
def wordOfFields (op : BitVec 2) (rd : RegNum) (op3 : BitVec 6) (rs1 : RegNum) (i : BitVec 1) (unused : BitVec 7)
    (ajit : BitVec 1) (rs2 : RegNum) : Word :=
  op ++ rd ++ op3 ++ rs1 ++ i ++ unused ++ ajit ++ rs2

theorem wordOfFields_inj {op op' : BitVec 2} {rd rd' : RegNum} {op3 op3' : BitVec 6} {rs1 rs1' : RegNum}
    {i i' : BitVec 1} {unused unused' : BitVec 7} {ajit ajit' : BitVec 1} {rs2 rs2' : RegNum} :
    wordOfFields op rd op3 rs1 i unused ajit rs2 = wordOfFields op' rd' op3' rs1' i' unused' ajit' rs2' ↔
      op = op' ∧ rd = rd' ∧ op3 = op3' ∧ rs1 = rs1' ∧ i = i' ∧ unused = unused' ∧ ajit = ajit' ∧ rs2 = rs2' := by
  change @Eq (BitVec (2 + 5 + 6 + 5 + 1 + 7 + 1 + 5)) _ _ ↔ _
  simp only [wordOfFields, bitVec_append_inj, and_assoc]

theorem wordOfFields_of_word (w : Word) :
    wordOfFields (opField w) (rdField w) (op3Field w) (rs1Field w) (iField w) (unusedField w) (ajitField w)
      (rs2Field w) = w := by
  ext k hk
  simp [wordOfFields, opField, rdField, op3Field, rs1Field, iField, unusedField, ajitField, rs2Field,
    ← BitVec.getLsbD_eq_getElem]
  grind

/-- Masking a word masks each of its fields. -/
theorem and_wordOfFields (w : Word) (op : BitVec 2) (rd : RegNum) (op3 : BitVec 6) (rs1 : RegNum) (i : BitVec 1)
    (unused : BitVec 7) (ajit : BitVec 1) (rs2 : RegNum) :
    w &&& wordOfFields op rd op3 rs1 i unused ajit rs2 =
      wordOfFields (opField w &&& op) (rdField w &&& rd) (op3Field w &&& op3) (rs1Field w &&& rs1) (iField w &&& i)
        (unusedField w &&& unused) (ajitField w &&& ajit) (rs2Field w &&& rs2) := by
  conv_lhs => rw [← wordOfFields_of_word w]
  simp only [wordOfFields, ← BitVec.and_append]

theorem word_zero_eq_wordOfFields : 0#32 = wordOfFields 0 0 0 0 0 0 0 0 := rfl

theorem and_fixedMask (w : Word) :
    w &&& 0xC1F82020#32 = wordOfFields (opField w) 0 (op3Field w) 0 (iField w) 0 (ajitField w) 0 := by
  have hmask : 0xC1F82020#32 = wordOfFields (.allOnes 2) 0 (.allOnes 6) 0 (.allOnes 1) 0 (.allOnes 1) 0 := rfl
  simp only [hmask, and_wordOfFields, BitVec.and_allOnes, BitVec.ofNat_eq_ofNat, BitVec.and_zero]

theorem and_unusedMask_eq_zero_iff (w : Word) : w &&& 0x1FC0#32 = 0#32 ↔ unusedField w = 0#7 := by
  have hmask : 0x1FC0#32 = wordOfFields 0 0 0 0 0 (.allOnes 7) 0 0 := rfl
  rw [hmask, word_zero_eq_wordOfFields, and_wordOfFields, wordOfFields_inj, BitVec.and_allOnes]
  simp

theorem evenReg_iff_and_one (r : RegNum) : evenReg r = true ↔ r &&& 1#5 = 0#5 := by
  revert r; decide

theorem and_parityMask_eq_zero_iff (w : Word) :
    w &&& 0x02004001#32 = 0#32 ↔
      evenReg (rdField w) = true ∧ evenReg (rs1Field w) = true ∧ evenReg (rs2Field w) = true := by
  have hmask : 0x02004001#32 = wordOfFields 0 1 0 1 0 0 0 1 := rfl
  rw [hmask, word_zero_eq_wordOfFields, and_wordOfFields, wordOfFields_inj]
  simp [evenReg_iff_and_one]

/-- The word of an op3 with every register number 0: the fixed bits alone. -/
def fixedBits (op3 : BitVec 6) : Word := layoutF4 0 op3 0 0

theorem and_fixedMask_eq_fixedBits_iff (w : Word) (op3 : BitVec 6) :
    w &&& 0xC1F82020#32 = fixedBits op3 ↔
      (opField w = 0b10#2 ∧ iField w = 0#1 ∧ ajitField w = 1#1) ∧ op3Field w = op3 := by
  have hfixed : fixedBits op3 = wordOfFields 0b10#2 0 op3 0 0#1 0 1#1 0 := rfl
  rw [and_fixedMask, hfixed, wordOfFields_inj]
  tauto

theorem map_fixedBits_op3Values :
    op3Values.map fixedBits = [0x80500020#32, 0x80D00020#32, 0x80580020#32, 0x80D80020#32,
      0x80700020#32, 0x80F00020#32, 0x80780020#32, 0x80F80020#32] := rfl

theorem exists_matchInstr_iff_and_fixedMask (w : Word) :
    (∃ i, matchInstr w = some i) ↔
      w &&& 0xC1F82020#32 ∈ [0x80500020#32, 0x80D00020#32, 0x80580020#32, 0x80D80020#32,
        0x80700020#32, 0x80F00020#32, 0x80780020#32, 0x80F80020#32] := by
  rw [← map_fixedBits_op3Values]
  simp [exists_matchInstr_iff, List.mem_map, eq_comm (a := fixedBits _), and_fixedMask_eq_fixedBits_iff, and_comm]

theorem wellFormed_iff_and_parityMask {w : Word} {i : Instr} (hm : matchInstr w = some i) :
    i.wellFormed = true ↔ w &&& 0x02004001#32 = 0#32 := by
  obtain ⟨-, -, hrd, hrs1, hrs2⟩ := matchInstr_eq_some_iff.mp hm
  rw [and_parityMask_eq_zero_iff, Instr.wellFormed_iff, hrd, hrs1, hrs2]

/-! ## The sorting of all words, and how many of them are defined (rule R55) -/

/-- The even register numbers. -/
def evenRegs : Finset RegNum := Finset.univ.filter (evenReg · = true)

theorem mem_evenRegs {r : RegNum} : r ∈ evenRegs ↔ evenReg r = true := by
  simp [evenRegs]

theorem card_evenRegs : evenRegs.card = 16 := by decide

/-- The fields of the defined words: op3, rd, rs1 and rs2. -/
def definedFields : Finset (BitVec 6 × RegNum × RegNum × RegNum) :=
  op3Values.toFinset ×ˢ evenRegs ×ˢ evenRegs ×ˢ evenRegs

theorem card_definedFields : definedFields.card = 32768 := by
  have hop3 : op3Values.toFinset.card = 8 := by decide
  simp only [definedFields, Finset.card_product, hop3, card_evenRegs]

/-- The word that has these fields. -/
def wordOfDefinedFields (p : BitVec 6 × RegNum × RegNum × RegNum) : Word := layoutF4 p.2.1 p.1 p.2.2.1 p.2.2.2

theorem wordOfDefinedFields_injective : Function.Injective wordOfDefinedFields := by
  rintro ⟨op3, rd, rs1, rs2⟩ ⟨op3', rd', rs1', rs2'⟩ h
  have hop3 := congrArg op3Field h
  have hrd := congrArg rdField h
  have hrs1 := congrArg rs1Field h
  have hrs2 := congrArg rs2Field h
  simp only [wordOfDefinedFields, op3Field_layoutF4, rdField_layoutF4, rs1Field_layoutF4, rs2Field_layoutF4]
    at hop3 hrd hrs1 hrs2
  rw [hop3, hrd, hrs1, hrs2]

theorem mem_definedFields_iff {op3 : BitVec 6} {rd rs1 rs2 : RegNum} :
    (op3, rd, rs1, rs2) ∈ definedFields ↔
      ∃ i : Instr, i.wellFormed = true ∧ op3Of i = op3 ∧ i.rd = rd ∧ i.rs1 = rs1 ∧ i.rs2 = rs2 := by
  simp only [definedFields, Finset.mem_product, List.mem_toFinset, mem_evenRegs]
  constructor
  · rintro ⟨hop3, heven⟩
    obtain ⟨i, hi⟩ := exists_instrOfOp3_iff (rd := rd) (rs1 := rs1) (rs2 := rs2) |>.mpr hop3
    obtain ⟨rfl, rfl, rfl, rfl⟩ := instrOfOp3_eq_some_iff.mp hi
    exact ⟨i, i.wellFormed_iff.mpr heven, rfl, rfl, rfl, rfl⟩
  · rintro ⟨i, hwf, rfl, rfl, rfl, rfl⟩
    exact ⟨op3Of_mem_op3Values i, i.wellFormed_iff.mp hwf⟩

/-- The defined words are the layouts of one of the eight op3 values with even register numbers. -/
theorem acceptedWords_eq_image :
    {w : Word | ∃ i : Instr, decode w = .instr i} = wordOfDefinedFields '' definedFields := by
  ext w
  simp only [Set.mem_ofPred_eq, decode_eq_instr_iff, Set.mem_image, Finset.mem_coe]
  constructor
  · rintro ⟨i, hwf, henc⟩
    exact ⟨(op3Of i, i.rd, i.rs1, i.rs2), mem_definedFields_iff.mpr ⟨i, hwf, rfl, rfl, rfl, rfl⟩, henc⟩
  · rintro ⟨⟨op3, rd, rs1, rs2⟩, hmem, hw⟩
    obtain ⟨i, hwf, rfl, rfl, rfl, rfl⟩ := mem_definedFields_iff.mp hmem
    exact ⟨i, hwf, hw⟩

theorem ncard_acceptedWords : Set.ncard {w : Word | ∃ i : Instr, decode w = .instr i} = 32768 := by
  rw [acceptedWords_eq_image, Set.ncard_image_of_injective _ wordOfDefinedFields_injective, Set.ncard_coe_finset,
    card_definedFields]

/-- Settles O3: each mask of R55 is one of the decoder's three tests, and the accepted words are counted by their
fields. -/
theorem everyWordIsSorted : Obligations.EveryWordIsSorted := by
  refine ⟨fun w => ?_, ncard_acceptedWords⟩
  have hmatched := exists_matchInstr_iff_and_fixedMask w
  cases hm : matchInstr w with
  | none =>
    rw [if_neg (mt hmatched.mpr (by simp [hm]))]
    exact decode_of_matchInstr_none hm
  | some i =>
    rw [if_pos (hmatched.mp ⟨i, hm⟩)]
    split_ifs with hunused hodd
    · exact decode_of_unused hm (mt (and_unusedMask_eq_zero_iff w).mpr hunused)
    · have hu := (and_unusedMask_eq_zero_iff w).mp (not_not.mp hunused)
      exact decode_of_illFormed hm hu (Bool.eq_false_iff.mpr (mt (wellFormed_iff_and_parityMask hm).mp hodd))
    · have hu := (and_unusedMask_eq_zero_iff w).mp (not_not.mp hunused)
      have hwf := (wellFormed_iff_and_parityMask hm).mpr (not_not.mp hodd)
      exact ⟨i, hwf, decode_eq_instr_iff.mpr ⟨hwf, encode_of_matchInstr hm hu⟩⟩

end Sys2Proof

/-! PROOFS. The statements about the multiply family: UMULD (R71), UMULDCC (R72), SMULD (R73) and SMULDCC (R74), with
the lemmas on an instruction's word and line and on completion that they share. -/

namespace Sys2Proof

/-! ## The word of an instruction as its fixed bits and its register numbers (rule R50) -/

/-- Joining words with "or" joins each of their fields. -/
theorem wordOfFields_or (op op' : BitVec 2) (rd rd' : RegNum) (op3 op3' : BitVec 6) (rs1 rs1' : RegNum)
    (i i' : BitVec 1) (unused unused' : BitVec 7) (ajit ajit' : BitVec 1) (rs2 rs2' : RegNum) :
    wordOfFields op rd op3 rs1 i unused ajit rs2 ||| wordOfFields op' rd' op3' rs1' i' unused' ajit' rs2' =
      wordOfFields (op ||| op') (rd ||| rd') (op3 ||| op3') (rs1 ||| rs1') (i ||| i') (unused ||| unused')
        (ajit ||| ajit') (rs2 ||| rs2') := by
  simp only [wordOfFields, ← BitVec.or_append]

theorem rdShifted_eq_wordOfFields (r : RegNum) : r.setWidth 32 <<< 25 = wordOfFields 0 r 0 0 0 0 0 0 := by
  revert r; decide

theorem rs1Shifted_eq_wordOfFields (r : RegNum) : r.setWidth 32 <<< 14 = wordOfFields 0 0 0 r 0 0 0 0 := by
  revert r; decide

theorem rs2Widened_eq_wordOfFields (r : RegNum) : r.setWidth 32 = wordOfFields 0 0 0 0 0 0 0 r := by
  revert r; decide

theorem layoutF4_eq_fixedBits_or (rd : RegNum) (op3 : BitVec 6) (rs1 rs2 : RegNum) :
    layoutF4 rd op3 rs1 rs2 =
      fixedBits op3 ||| (rd.setWidth 32 <<< 25) ||| (rs1.setWidth 32 <<< 14) ||| rs2.setWidth 32 := by
  have hlayout (rd rs1 rs2 : RegNum) : layoutF4 rd op3 rs1 rs2 = wordOfFields 0b10 rd op3 rs1 0 0 1 rs2 := rfl
  rw [fixedBits, hlayout, hlayout, rdShifted_eq_wordOfFields, rs1Shifted_eq_wordOfFields, rs2Widened_eq_wordOfFields]
  simp [wordOfFields_or]

end Sys2Proof

namespace Sys2Proof.Machine

/-- A well-formed instruction is encoded by the fixed bits that its op3 gives, and its word decodes to it. -/
theorem encodedAs_of_op3Of {i : Instr} {fixed : Word} (hwf : i.wellFormed = true) (op3 : BitVec 6)
    (hop3 : op3Of i = op3) (hfixed : fixedBits op3 = fixed) : EncodedAs i fixed := by
  refine ⟨?_, decode_encode_of_wellFormed hwf⟩
  rw [encode, layoutF4_eq_fixedBits_or, hop3, hfixed]

theorem writtenAs_mnemonic (i : Instr) : WrittenAs i (mnemonic i) := rfl

/-! ## Completion (rules R15, R17, R19) -/

/-- The value of a pair as the statements name it is the one that the meanings read. -/
theorem State.pairValue_eq_readPair (s : State) (n : RegNum) : s.pairValue n = s.readPair n := rfl

/-- The last stage of an instruction completes it, whatever the condition codes it leaves. -/
theorem State.completed_retire (s : State) {rd : RegNum} (v : DWord) (c : Icc) (hd : evenReg rd = true) :
    s.Completed (s.retire rd v c) rd v :=
  ⟨s.writePair_holdsPair v hd,
    ⟨fun _ => s.readReg_writePair_other v hd, s.retire_status rd v c, State.readByte_congr (s.retire_mem rd v c)⟩,
    s.retire_pc rd v c, s.retire_npc rd v c⟩

/-! ## The products (rule R70) -/

theorem umul64_eq_ofNat (a b : DWord) : umul64 a b = BitVec.ofNat 64 (a.toNat * b.toNat) := by
  rw [umul64, trunc64, ← Int.natCast_mul, BitVec.ofInt_natCast]

theorem smul64_eq_ofInt (a b : DWord) : smul64 a b = BitVec.ofInt 64 (a.toInt * b.toInt) := rfl

/-! ## The condition codes (rules R72, R74) -/

theorem zeroFlag_iff (v : DWord) : zeroFlag v = true ↔ v = 0#64 := decide_eq_true_iff

theorem smulOverflows_iff (a b : DWord) :
    smulOverflows a b = true ↔ a.toInt * b.toInt < -2 ^ 63 ∨ a.toInt * b.toInt > 2 ^ 63 - 1 :=
  decide_eq_true_iff

@[simp] theorem iccUmuldcc_z (s : State) (v : DWord) : (iccUmuldcc s v).z = zeroFlag v := rfl

@[simp] theorem iccSmuldcc_z (s : State) (v : DWord) (o : Bool) : (iccSmuldcc s v o).z = zeroFlag v := rfl

@[simp] theorem iccSmuldcc_n (s : State) (v : DWord) (o : Bool) : (iccSmuldcc s v o).n = v.getLsbD 63 := rfl

/-- At the value of rule R4, V of SMULDCC is the signed overflow. -/
@[simp] theorem iccSmuldcc_v (s : State) (v : DWord) (o : Bool) : (iccSmuldcc s v o).v = o := rfl

/-- An integer is outside the signed 64-bit range exactly when truncation to 64 bits loses it. -/
theorem outside_int64_iff_toInt_ofInt_ne (k : Int) :
    (k < -2 ^ 63 ∨ k > 2 ^ 63 - 1) ↔ (BitVec.ofInt 64 k).toInt ≠ k := by
  constructor
  · intro hout heq
    have hlow := BitVec.le_toInt (BitVec.ofInt 64 k)
    have hhigh := BitVec.toInt_lt (x := BitVec.ofInt 64 k)
    rw [heq] at hlow hhigh
    omega
  · intro hne
    by_contra hin
    exact hne (BitVec.toInt_ofInt_eq_self (by decide) (by omega) (by omega))

/-! ## The four instructions -/

/-- Settles O14: UMULD is its last stage, with the unsigned product and the condition codes as they were. -/
theorem umuldWritesTheLowProduct : Obligations.UmuldWritesTheLowProduct := by
  intro rd rs1 rs2 s hd h1 h2
  refine ⟨encodedAs_of_op3Of ((Instr.wellFormed_iff _).mpr ⟨hd, h1, h2⟩) 0x0A#6 rfl rfl, writtenAs_mnemonic _,
    _, exec_umuld_even s hd h1 h2, ?completed, s.retire_icc ..⟩
  rw [s.pairValue_eq_readPair, s.pairValue_eq_readPair, ← umul64_eq_ofNat]
  exact s.completed_retire _ _ hd

/-- Settles O15: as UMULD, and Z tests the product itself, not what pair(rd) reads back. -/
theorem umuldccWritesTheLowProductAndZ : Obligations.UmuldccWritesTheLowProductAndZ := by
  intro rd rs1 rs2 s p hd h1 h2 hp
  rw [s.pairValue_eq_readPair, s.pairValue_eq_readPair, ← umul64_eq_ofNat] at hp
  refine ⟨encodedAs_of_op3Of ((Instr.wellFormed_iff _).mpr ⟨hd, h1, h2⟩) 0x1A#6 rfl rfl, writtenAs_mnemonic _,
    _, exec_umuldcc_even s hd h1 h2, ?completed, ?z⟩
  all_goals rw [← hp]
  case completed => exact s.completed_retire _ _ hd
  case z => rw [State.retire_icc, iccUmuldcc_z, zeroFlag_iff]

/-- Settles O16: SMULD is its last stage, with the signed product and the condition codes as they were. -/
theorem smuldWritesTheLowSignedProduct : Obligations.SmuldWritesTheLowSignedProduct := by
  intro rd rs1 rs2 s hd h1 h2
  refine ⟨encodedAs_of_op3Of ((Instr.wellFormed_iff _).mpr ⟨hd, h1, h2⟩) 0x0B#6 rfl rfl, writtenAs_mnemonic _,
    _, exec_smuld_even s hd h1 h2, ?completed, s.retire_icc ..⟩
  rw [s.pairValue_eq_readPair, s.pairValue_eq_readPair, ← smul64_eq_ofInt]
  exact s.completed_retire _ _ hd

/-- Settles O17: as SMULD, with Z and N of the product written and V its overflow, of which the two forms are the same
by the range of a 64-bit integer. -/
theorem smuldccWritesTheLowSignedProductAndFlags : Obligations.SmuldccWritesTheLowSignedProductAndFlags := by
  intro rd rs1 rs2 s k hd h1 h2 hk
  rw [s.pairValue_eq_readPair, s.pairValue_eq_readPair] at hk
  have hproduct : smul64 (s.readPair rs1) (s.readPair rs2) = BitVec.ofInt 64 k := by
    rw [smul64_eq_ofInt, hk]
  have hoverflow : smulOverflows (s.readPair rs1) (s.readPair rs2) = true ↔ k < -2 ^ 63 ∨ k > 2 ^ 63 - 1 := by
    rw [smulOverflows_iff, hk]
  refine ⟨encodedAs_of_op3Of ((Instr.wellFormed_iff _).mpr ⟨hd, h1, h2⟩) 0x1B#6 rfl rfl, writtenAs_mnemonic _,
    _, exec_smuldcc_even s hd h1 h2, ?completed, ?z, ?n, ?range, ?truncated⟩
  all_goals rw [hproduct]
  case completed => exact s.completed_retire _ _ hd
  case z => rw [State.retire_icc, iccSmuldcc_z, zeroFlag_iff]
  case n => rw [State.retire_icc, iccSmuldcc_n]
  case range => rw [State.retire_icc, iccSmuldcc_v, hoverflow]
  case truncated => rw [State.retire_icc, iccSmuldcc_v, hoverflow, outside_int64_iff_toInt_ofInt_ne]

end Sys2Proof.Machine

/-! PROOFS. The statements about the divide family: the zero divisor (R80), UDIVD (R81), UDIVDCC (R82), SDIVD (R83) and
SDIVDCC (R84), with the lemmas on the zero-divisor test and on the quotients that they share. -/

namespace Sys2Proof.Machine

/-! ## The zero-divisor test (rule R80) -/

section DivideInto
variable (s : State) {b : DWord} (t : State)

theorem divideInto_of_eq_zero (hb : b = 0#64) : divideInto s b t = .next (s.raiseTrap 0x2A#8) := if_pos hb

theorem divideInto_of_ne_zero (hb : b ≠ 0#64) : divideInto s b t = .next t := if_neg hb

end DivideInto

/-- A pair is zero when both of its registers are. -/
theorem State.readPair_eq_zero_iff (s : State) (n : RegNum) :
    s.readPair n = 0#64 ↔ s.readReg n = 0#32 ∧ s.readReg (n + 1#5) = 0#32 := by
  have hzero : 0#64 = 0#32 ++ 0#32 := rfl
  rw [State.readPair_eq, hzero, bitVec_append_inj]

/-- Every divide is the zero-divisor test on its divisor pair, before a last stage with some quotient and some condition
codes. -/
theorem exec_divide {i : Instr} (hwf : i.wellFormed = true) (hdiv : i.isDivide = true) (s : State) :
    ∃ (v : DWord) (c : Icc), exec i s = divideInto s (s.readPair i.rs2) (s.retire i.rd v c) := by
  obtain ⟨hd, h1, h2⟩ := (Instr.wellFormed_iff i).mp hwf
  cases i with
  | umuld | umuldcc | smuld | smuldcc => cases hdiv
  | udivd => exact ⟨_, _, exec_udivd_even s hd h1 h2⟩
  | udivdcc => exact ⟨_, _, exec_udivdcc_even s hd h1 h2⟩
  | sdivd => exact ⟨_, _, exec_sdivd_even s hd h1 h2⟩
  | sdivdcc => exact ⟨_, _, exec_sdivdcc_even s hd h1 h2⟩

/-- Settles O24: the test fires exactly when both registers of the divisor pair are zero; raising sets the status alone,
and the last stage leaves the status. -/
theorem zeroDivisorTrapsAndWritesNothing : Obligations.ZeroDivisorTrapsAndWritesNothing := by
  intro i s hwf hdiv
  obtain ⟨v, c, hexec⟩ := exec_divide hwf hdiv s
  split_ifs with hzero
  · rw [divideInto_of_eq_zero s _ ((s.readPair_eq_zero_iff _).mpr hzero)] at hexec
    exact ⟨_, hexec, s.raiseTrap_status _, s.raiseTrap_readReg _, s.raiseTrap_icc _, s.raiseTrap_pc _,
      s.raiseTrap_npc _, State.readByte_congr (s.raiseTrap_mem _)⟩
  · rw [divideInto_of_ne_zero s _ fun hb => hzero ((s.readPair_eq_zero_iff _).mp hb)] at hexec
    exact ⟨_, hexec, s.retire_status i.rd v c⟩

/-! ## The unsigned quotient (rules R81, R82) -/

theorem udiv64_eq_ofNat (a b : DWord) : udiv64 a b = BitVec.ofNat 64 (a.toNat / b.toNat) := by
  rw [udiv64, trunc64, BitVec.ofInt_natCast]

theorem udiv64_eq_udiv (a b : DWord) : udiv64 a b = a / b := by
  rw [udiv64_eq_ofNat, ← BitVec.toNat_udiv, BitVec.ofNat_toNat, BitVec.setWidth_eq]

theorem udiv64_eq_zero_iff (a : DWord) {b : DWord} (hb : b ≠ 0#64) : udiv64 a b = 0#64 ↔ a.toNat < b.toNat := by
  rw [udiv64_eq_udiv, BitVec.udiv_eq_zero_iff_eq_zero_or_lt, or_iff_right hb, BitVec.lt_def]

@[simp] theorem iccUdivdcc_z (s : State) (v : DWord) : (iccUdivdcc s v).z = zeroFlag v := rfl

@[simp] theorem iccUdivdcc_v (s : State) (v : DWord) : (iccUdivdcc s v).v = false := rfl

/-- Settles O20: after the zero-divisor test UDIVD is its last stage, with the unsigned quotient and the condition codes
as they were. -/
theorem udivdWritesTheQuotient : Obligations.UdivdWritesTheQuotient := by
  intro rd rs1 rs2 s hd h1 h2
  rw [s.pairValue_eq_readPair, s.pairValue_eq_readPair, ← udiv64_eq_ofNat, exec_udivd_even s hd h1 h2]
  refine ⟨encodedAs_of_op3Of ((Instr.wellFormed_iff _).mpr ⟨hd, h1, h2⟩) 0x0E#6 rfl rfl, writtenAs_mnemonic _,
    divideInto_of_eq_zero s _, fun hb => ⟨_, divideInto_of_ne_zero s _ hb, ?completed, s.retire_icc ..⟩⟩
  case completed => exact s.completed_retire _ _ hd

/-- Settles O21: as UDIVD, and Z, which tests the quotient written, is 1 for a dividend below the divisor. -/
theorem udivdccWritesTheQuotientAndFlags : Obligations.UdivdccWritesTheQuotientAndFlags := by
  intro rd rs1 rs2 s hd h1 h2
  rw [s.pairValue_eq_readPair, s.pairValue_eq_readPair, ← udiv64_eq_ofNat, exec_udivdcc_even s hd h1 h2]
  refine ⟨encodedAs_of_op3Of ((Instr.wellFormed_iff _).mpr ⟨hd, h1, h2⟩) 0x1E#6 rfl rfl, writtenAs_mnemonic _,
    divideInto_of_eq_zero s _, fun hb => ⟨_, divideInto_of_ne_zero s _ hb, ?completed, ?z, ?v⟩⟩
  case completed => exact s.completed_retire _ _ hd
  case z => rw [State.retire_icc, iccUdivdcc_z, zeroFlag_iff, udiv64_eq_zero_iff _ hb]
  case v => rw [State.retire_icc, iccUdivdcc_v]

/-! ## The signed quotient (rules R83, R84) -/

theorem toInt_eq_zero_iff (b : DWord) : b.toInt = 0 ↔ b = 0#64 := by
  rw [← BitVec.toInt_inj, BitVec.toInt_zero]

theorem sdiv64_eq_sdiv (a b : DWord) : sdiv64 a b = a.sdiv b := by
  apply BitVec.eq_of_toInt_eq
  rw [sdiv64, trunc64, BitVec.toInt_ofInt, BitVec.toInt_sdiv]

theorem sdivOverflows_iff (a b : DWord) : sdivOverflows a b = true ↔ a.toInt = -2 ^ 63 ∧ b.toInt = -1 :=
  decide_eq_true_iff

section Fits
variable {a b : DWord} (h : ¬(a.toInt = -2 ^ 63 ∧ b.toInt = -1))
include h

/-- Outside the one overflow case no quotient is truncated. -/
theorem toInt_sdiv64 : (sdiv64 a b).toInt = a.toInt.tdiv b.toInt := by
  rw [sdiv64_eq_sdiv, BitVec.toInt_sdiv_of_ne_or_ne]
  by_contra hc
  push Not at hc
  obtain ⟨rfl, rfl⟩ := hc
  exact h ⟨rfl, rfl⟩

theorem sdivQuotient_of_fits (s : State) : sdivQuotient s a b = sdiv64 a b :=
  if_neg (mt (sdivOverflows_iff a b).mp h)

/-- The quotient that the signed divides write is then the one rounded toward zero. -/
theorem sdivQuotient_roundsTowardZero (s : State) :
    sdivQuotient s a b = BitVec.ofInt 64 (a.toInt.tdiv b.toInt) ∧
      (sdivQuotient s a b).toInt = a.toInt.tdiv b.toInt := by
  rw [sdivQuotient_of_fits h s]
  exact ⟨rfl, toInt_sdiv64 h⟩

end Fits

@[simp] theorem iccSdivdcc_z (s : State) (v : DWord) (o : Bool) : (iccSdivdcc s v o).z = zeroFlag v := rfl

@[simp] theorem iccSdivdcc_n (s : State) (v : DWord) (o : Bool) : (iccSdivdcc s v o).n = v.getLsbD 63 := rfl

@[simp] theorem iccSdivdcc_v (s : State) (v : DWord) (o : Bool) : (iccSdivdcc s v o).v = o := rfl

/-- Settles O22: after the zero-divisor test SDIVD is its last stage, with the signed quotient, a draw in the overflow
case, and the condition codes as they were. -/
theorem sdivdWritesTheQuotient : Obligations.SdivdWritesTheQuotient := by
  intro rd rs1 rs2 s a b hd h1 h2 ha hb
  rw [s.pairValue_eq_readPair] at ha hb
  subst ha hb
  rw [exec_sdivd_even s hd h1 h2, Ne, toInt_eq_zero_iff]
  exact ⟨encodedAs_of_op3Of ((Instr.wellFormed_iff _).mpr ⟨hd, h1, h2⟩) 0x0F#6 rfl rfl, writtenAs_mnemonic _,
    divideInto_of_eq_zero s _, fun hb => ⟨_, _, divideInto_of_ne_zero s _ hb, s.completed_retire _ _ hd,
      s.retire_icc .., fun hfits => sdivQuotient_roundsTowardZero hfits s⟩⟩

/-- Settles O23: as SDIVD, with Z and N of the quotient written, the drawn one too, and V the overflow case. -/
theorem sdivdccWritesTheQuotientAndFlags : Obligations.SdivdccWritesTheQuotientAndFlags := by
  intro rd rs1 rs2 s a b hd h1 h2 ha hb
  rw [s.pairValue_eq_readPair] at ha hb
  subst ha hb
  rw [exec_sdivdcc_even s hd h1 h2, Ne, toInt_eq_zero_iff]
  refine ⟨encodedAs_of_op3Of ((Instr.wellFormed_iff _).mpr ⟨hd, h1, h2⟩) 0x1F#6 rfl rfl, writtenAs_mnemonic _,
    divideInto_of_eq_zero s _, fun hb => ⟨_, _, divideInto_of_ne_zero s _ hb, s.completed_retire _ _ hd, ?z, ?n, ?v,
      fun hfits => sdivQuotient_roundsTowardZero hfits s⟩⟩
  case z => rw [State.retire_icc, iccSdivdcc_z, zeroFlag_iff]
  case n => rw [State.retire_icc, iccSdivdcc_n]
  case v => rw [State.retire_icc, iccSdivdcc_v, sdivOverflows_iff]

end Sys2Proof.Machine

/-! PROOFS. The statements about exceptions: the only one that a step raises (R90), and what raising does (R96), with
the lemmas on the decoder's policies and on trapped states that they are assembled from. -/

namespace Sys2Proof

/-! ## The policies under which the decoder answers illegal_instruction (rules R16, R48, R90) -/

theorem decodeWith_of_matchInstr_none {w : Word} (odd : OddPairPolicy) (unused : UnusedBitsPolicy)
    (hm : matchInstr w = none) : decodeWith odd unused w = .refuse .notInScope := by
  simp [decodeWith, hm]

theorem decodeWith_refuse_of_unused {w : Word} {i : Instr} (odd : OddPairPolicy) (hm : matchInstr w = some i)
    (hu : unusedField w ≠ 0#7) : decodeWith odd .refuse w = .refuse .unusedBitsNonzero := by
  simp [decodeWith, hm, hu]

theorem decodeOperands_of_wellFormed {i : Instr} (odd : OddPairPolicy) (hwf : i.wellFormed = true) :
    decodeOperands odd i = .instr i :=
  if_pos hwf

theorem oddPairPolicy_of_decodeOperands_illegal {odd : OddPairPolicy} {i : Instr}
    (h : decodeOperands odd i = .illegal) : odd = .illegalInstruction := by
  cases hwf : i.wellFormed with
  | true => simp [decodeOperands_of_wellFormed odd hwf] at h
  | false =>
    cases odd with
    | refuse => simp [decodeOperands_refuse_of_illFormed hwf] at h
    | illegalInstruction => rfl
    | clearBit0 => simp [decodeOperands_clearBit0_of_illFormed hwf] at h

/-- A word that the pattern test passes is its instruction's own word, where only the register numbers are left to
test, or has unused bits set, where the policy for them is asked first. -/
theorem policy_of_decodeWith_illegal {odd : OddPairPolicy} {unused : UnusedBitsPolicy} {w : Word}
    (h : decodeWith odd unused w = .illegal) : odd = .illegalInstruction ∨ unused = .illegalInstruction := by
  cases hm : matchInstr w with
  | none => simp [decodeWith_of_matchInstr_none odd unused hm] at h
  | some i =>
    by_cases hu : unusedField w = 0#7
    · rw [← encode_of_matchInstr hm hu, decodeWith_encode] at h
      exact .inl (oddPairPolicy_of_decodeOperands_illegal h)
    · cases unused with
      | refuse => simp [decodeWith_refuse_of_unused odd hm hu] at h
      | illegalInstruction => exact .inr rfl
      | ignore =>
        rw [decodeWith_ignore_of_matchInstr hm] at h
        exact .inl (oddPairPolicy_of_decodeOperands_illegal h)

end Sys2Proof

namespace Sys2Proof.Machine

/-! ## The exception of an instruction (rule R90) -/

/-- The last stage keeps the status, so an instruction that leaves a running state trapped has raised the exception of
its zero-divisor test. -/
theorem exec_next_trapped {i : Instr} {s t : State} {tt : BitVec 8} (hrun : s.status = .running)
    (h : exec i s = .next t) (ht : t.status = .trapped tt) :
    tt = 0x2A#8 ∧ t = s.raiseTrap 0x2A#8 ∧ i.isDivide = true ∧ s.readPair i.rs2 = 0#64 := by
  obtain ⟨-, ⟨hdiv, hzero, rfl⟩ | ⟨-, v, c, rfl⟩⟩ := exec_next_cases h
  · rw [State.raiseTrap_status, RunStatus.trapped.injEq] at ht
    exact ⟨ht.symm, rfl, hdiv, hzero⟩
  · rw [State.retire_status, hrun] at ht
    cases ht

/-- Settles O36: under the policies of rule R4 a step is the instruction that the word at pc decodes to, whose only
exception is that of its zero-divisor test. -/
theorem onlyAZeroDivisorTraps : Obligations.OnlyAZeroDivisorTraps := by
  refine ⟨fun s t tt h ht => ?_, fun _ _ _ => policy_of_decodeWith_illegal⟩
  obtain ⟨hrun, w, i, hfetch, hdecode, hexec⟩ := step_next_cases h
  obtain ⟨htt, hstate, hdiv, hzero⟩ := exec_next_trapped hrun hexec ht
  exact ⟨htt, hstate, w, i, hfetch, hdecode, hdiv, hzero⟩

/-! ## Raising an exception (rule R96) -/

theorem State.raiseTrap_stopped (s : State) (tt : BitVec 8) : (s.raiseTrap tt).status ≠ .running := by
  simp

/-- Settles O34: the state that raising leaves is a stopped one, where the run stays. -/
theorem raisingSetsTheStatusAlone : Obligations.RaisingSetsTheStatusAlone := by
  intro s tt
  obtain ⟨hstep, hstays, hover⟩ := stoppedRunNeverChanges _ (s.raiseTrap_stopped tt)
  refine ⟨rfl, hstep, fun n entry k => ?_⟩
  rw [hstays n]
  exact ⟨s.raiseTrap_status tt, hover entry k⟩

end Sys2Proof.Machine

/-! PROOFS. The rest of the statements about the encoding: the round trips of decoder and encoder, op3 and the match
words (R49), the assembler's macros (R50), the test vectors, and the assembler's lines (R56, R57). -/

namespace Sys2Proof

/-! ## The round trips (rules R49 to R52) -/

/-- Settles O1: only the test for odd register numbers is left of an instruction's own word. -/
theorem decodeOfEncodeIsTheInstruction : Obligations.DecodeOfEncodeIsTheInstruction :=
  fun _ hwf => decode_encode_of_wellFormed hwf

/-- Settles O2: a word that passes the decoder's three tests is the layout of its own fields. -/
theorem acceptedWordIsItsEncoding : Obligations.AcceptedWordIsItsEncoding :=
  fun _ _ hdecode => decode_eq_instr_iff.mp hdecode

/-! ## The decode mask and the match words (rules R49, R50) -/

theorem and_decodeMask (w : Word) :
    w &&& decodeMask = wordOfFields (opField w) 0 (op3Field w) 0 (iField w) (unusedField w) (ajitField w) 0 := by
  have hmask : decodeMask = wordOfFields (.allOnes 2) 0 (.allOnes 6) 0 (.allOnes 1) (.allOnes 7) (.allOnes 1) 0 := rfl
  simp only [hmask, and_wordOfFields, BitVec.and_allOnes, BitVec.ofNat_eq_ofNat, BitVec.and_zero]

theorem and_decodeMask_eq_fixedBits_iff (w : Word) (op3 : BitVec 6) :
    w &&& decodeMask = fixedBits op3 ↔
      ((opField w = 0b10#2 ∧ iField w = 0#1 ∧ ajitField w = 1#1) ∧ op3Field w = op3) ∧ unusedField w = 0#7 := by
  have hfixed : fixedBits op3 = wordOfFields 0b10#2 0 op3 0 0#1 0#7 1#1 0 := rfl
  rw [and_decodeMask, hfixed, wordOfFields_inj]
  tauto

theorem encode_and_decodeMask (i : Instr) : encode i &&& decodeMask = fixedBits (op3Of i) := by
  rw [and_decodeMask_eq_fixedBits_iff]
  simp [encode]

theorem encode_and_decodeMask_of_op3Of {i : Instr} {fixed : Word} (op3 : BitVec 6) (hop3 : op3Of i = op3)
    (hfixed : fixedBits op3 = fixed) : encode i &&& decodeMask = fixed := by
  rw [encode_and_decodeMask, hop3, hfixed]

theorem asmF4_eq_fixedBits (op3 : BitVec 6) : asmF4 0x2#32 (op3.setWidth 32) 0x0#32 = fixedBits op3 := by
  revert op3; decide

theorem matchWord_eq_fixedBits (i : Instr) : matchWord i = fixedBits (op3Of i) := asmF4_eq_fixedBits _

theorem decode_eq_instr_iff_and_decodeMask {w : Word} {i : Instr} (hwf : i.wellFormed = true) :
    decode w = .instr i ↔
      w &&& decodeMask = matchWord i ∧ rdField w = i.rd ∧ rs1Field w = i.rs1 ∧ rs2Field w = i.rs2 := by
  rw [decode_eq_instr_iff, and_iff_right hwf, matchWord_eq_fixedBits]
  constructor
  · rintro rfl
    exact ⟨encode_and_decodeMask i, rdField_layoutF4 .., rs1Field_layoutF4 .., rs2Field_layoutF4 ..⟩
  · rintro ⟨hmask, hrd, hrs1, hrs2⟩
    obtain ⟨⟨hfixed, hop3⟩, hunused⟩ := (and_decodeMask_eq_fixedBits_iff w _).mp hmask
    have hmatch := matchInstr_eq_some_iff.mpr ⟨hfixed, hop3.symm, hrd.symm, hrs1.symm, hrs2.symm⟩
    exact encode_of_matchInstr hmatch hunused

/-- Settles O6: the macros build the fixed bits, onto which the register numbers are shifted; the mask covers all the
fields but theirs. -/
theorem macrosBuildTheLayout : Obligations.MacrosBuildTheLayout := by
  refine ⟨fun i => ?_, fun w i hwf => decode_eq_instr_iff_and_decodeMask hwf⟩
  rw [encode, layoutF4_eq_fixedBits_or, asmF4_eq_fixedBits]

/-! ## The structure of op3 (rule R49) -/

theorem op3Field_encode (i : Instr) : op3Field (encode i) = op3Of i := op3Field_layoutF4 ..

theorem getLsbD_encode_op3 (i : Instr) (k : Nat) (hk : k < 6) :
    (encode i).getLsbD (19 + k) = (op3Of i).getLsbD k := by
  simp [← op3Field_encode, op3Field, hk]

/-- Settles O5: the mask leaves an instruction's fixed bits, and bits 24:19 of an accepted word, which is its encoding,
are the op3 of the instruction. -/
theorem op3SelectsTheInstruction : Obligations.Op3SelectsTheInstruction := by
  refine ⟨fun rd rs1 rs2 => ?columns, fun w i hdecode => ?bits⟩
  case columns =>
    exact ⟨encode_and_decodeMask_of_op3Of 0x0A#6 rfl rfl, encode_and_decodeMask_of_op3Of 0x1A#6 rfl rfl,
      encode_and_decodeMask_of_op3Of 0x0B#6 rfl rfl, encode_and_decodeMask_of_op3Of 0x1B#6 rfl rfl,
      encode_and_decodeMask_of_op3Of 0x0E#6 rfl rfl, encode_and_decodeMask_of_op3Of 0x1E#6 rfl rfl,
      encode_and_decodeMask_of_op3Of 0x0F#6 rfl rfl, encode_and_decodeMask_of_op3Of 0x1F#6 rfl rfl,
      op3Field_encode _, op3Field_encode _, op3Field_encode _, op3Field_encode _, op3Field_encode _,
      op3Field_encode _, op3Field_encode _, op3Field_encode _⟩
  case bits =>
    obtain ⟨-, rfl⟩ := decode_eq_instr_iff.mp hdecode
    refine ⟨rfl, (getLsbD_encode_op3 i 5 (by decide)).trans ?_, (getLsbD_encode_op3 i 3 (by decide)).trans ?_,
      (getLsbD_encode_op3 i 1 (by decide)).trans ?_, (getLsbD_encode_op3 i 4 (by decide)).trans ?_,
      (getLsbD_encode_op3 i 2 (by decide)).trans ?_, (getLsbD_encode_op3 i 0 (by decide)).trans ?_⟩
    all_goals cases i <;> simp [op3Of]

/-- Settles O7: each word is a closed value that the decoder evaluates. -/
theorem vectorWordsDecode : Obligations.VectorWordsDecode := by
  unfold Obligations.VectorWordsDecode
  decide

end Sys2Proof

namespace Sys2Proof.Machine

/-! ## Assembler lines (rules R12, R56, R57) -/

theorem regOfName_regName (r : RegNum) : regOfName (regName r) = some r := by
  revert r; decide

theorem instrOfMnemonic_mnemonic (i : Instr) : instrOfMnemonic (mnemonic i) i.rd i.rs1 i.rs2 = some i := by
  cases i <;> rfl

theorem instrOfAsm_asmWords (i : Instr) : instrOfAsm (asmWords i) = some i := by
  simp only [asmWords, instrOfAsm, regOfName_regName, instrOfMnemonic_mnemonic]

/-- Settles O11: register names and mnemonics are read back as what they were written for. -/
theorem assemblerLineNamesTheInstruction : Obligations.AssemblerLineNamesTheInstruction :=
  fun i => ⟨rfl, instrOfAsm_asmWords i⟩

theorem instrOfMnemonic_umuld (rd rs1 rs2 : RegNum) : instrOfMnemonic "umuld" rd rs1 rs2 = none := rfl

theorem instrOfAsm_umuld (src1 src2 dest : String) : instrOfAsm ["umuld", src1, src2, dest] = none := by
  simp only [instrOfAsm, instrOfMnemonic_umuld]
  split <;> rfl

/-- Settles O10: the spelling is the table's, no operands make `umuld` a mnemonic, and no word depends on it. -/
theorem assemblerMnemonics : Obligations.AssemblerMnemonics :=
  ⟨fun _ _ _ => ⟨rfl, rfl, rfl, rfl, rfl, rfl, rfl, rfl⟩, instrOfAsm_umuld,
    fun _ _ _ => encode_and_decodeMask_of_op3Of 0x0A#6 rfl rfl⟩

end Sys2Proof.Machine

/-! PROOFS. The rest of the statements about the step and the run: the word read (R31, R32), the fetch (R33, R35, R93),
the order of events (R95), refusals (R92), the loader, and the invariant of a run from its launch (R19, R20, R110,
R112), with the one law of all the meanings that they are assembled from. -/

namespace Sys2Proof

/-! ## The decoder under the policies of rule R4 -/

theorem decode_ne_illegal (w : Word) : decode w ≠ .illegal := by
  intro h
  have hpolicy := policy_of_decodeWith_illegal h
  simp [Machine.params] at hpolicy

/-- A word is four bytes in one way only. -/
theorem wordOfBytes_eq_iff {b0 b1 b2 b3 : Byte} {w : Word} :
    wordOfBytes b0 b1 b2 b3 = w ↔
      b0 = byteOfWord w 0 ∧ b1 = byteOfWord w 1 ∧ b2 = byteOfWord w 2 ∧ b3 = byteOfWord w 3 := by
  conv_lhs => rw [← Machine.wordOfBytes_byteOfWord w]
  change @Eq (BitVec (8 + 8 + 8 + 8)) _ _ ↔ _
  simp only [wordOfBytes, bitVec_append_inj, and_assoc]

end Sys2Proof

namespace Sys2Proof.Machine

/-! ## All the meanings at once (rules R17, R80) -/

/-- The value that an instruction writes to pair(rd) when it completes on operands `a` and `b`. -/
def resultOf (i : Instr) (s : State) (a b : DWord) : DWord :=
  match i with
  | .umuld .. | .umuldcc .. => umul64 a b
  | .smuld .. | .smuldcc .. => smul64 a b
  | .udivd .. | .udivdcc .. => udiv64 a b
  | .sdivd .. | .sdivdcc .. => sdivQuotient s a b

/-- The condition codes that an instruction leaves when it completes on operands `a` and `b`. -/
def iccOf (i : Instr) (s : State) (a b : DWord) : Icc :=
  match i with
  | .umuld .. | .smuld .. | .udivd .. | .sdivd .. => s.icc
  | .umuldcc .. => iccUmuldcc s (umul64 a b)
  | .smuldcc .. => iccSmuldcc s (smul64 a b) (smulOverflows a b)
  | .udivdcc .. => iccUdivdcc s (udiv64 a b)
  | .sdivdcc .. => iccSdivdcc s (sdivQuotient s a b) (sdivOverflows a b)

/-- The state that an instruction leaves when it completes. -/
def completedBy (i : Instr) (s : State) : State :=
  s.retire i.rd (resultOf i s (s.readPair i.rs1) (s.readPair i.rs2))
    (iccOf i s (s.readPair i.rs1) (s.readPair i.rs2))

section WellFormed
variable {i : Instr} (hwf : i.wellFormed = true)
include hwf

theorem exec_multiply_of_wellFormed (hmul : i.isDivide = false) (s : State) :
    exec i s = .next (completedBy i s) := by
  obtain ⟨hd, h1, h2⟩ := i.wellFormed_iff.mp hwf
  cases i with
  | umuld => exact exec_umuld_even s hd h1 h2
  | umuldcc => exact exec_umuldcc_even s hd h1 h2
  | smuld => exact exec_smuld_even s hd h1 h2
  | smuldcc => exact exec_smuldcc_even s hd h1 h2
  | udivd | udivdcc | sdivd | sdivdcc => cases hmul

theorem exec_divide_of_wellFormed (hdiv : i.isDivide = true) (s : State) :
    exec i s = divideInto s (s.readPair i.rs2) (completedBy i s) := by
  obtain ⟨hd, h1, h2⟩ := i.wellFormed_iff.mp hwf
  cases i with
  | umuld | umuldcc | smuld | smuldcc => cases hdiv
  | udivd => exact exec_udivd_even s hd h1 h2
  | udivdcc => exact exec_udivdcc_even s hd h1 h2
  | sdivd => exact exec_sdivd_even s hd h1 h2
  | sdivdcc => exact exec_sdivdcc_even s hd h1 h2

theorem exec_of_zeroDivisor {s : State} (hzero : i.isDivide = true ∧ s.readPair i.rs2 = 0#64) :
    exec i s = .next (s.raiseTrap 0x2A#8) := by
  rw [exec_divide_of_wellFormed hwf hzero.1, divideInto_of_eq_zero s _ hzero.2]

theorem exec_of_not_zeroDivisor {s : State} (hnonzero : ¬(i.isDivide = true ∧ s.readPair i.rs2 = 0#64)) :
    exec i s = .next (completedBy i s) := by
  cases hdiv : i.isDivide with
  | false => exact exec_multiply_of_wellFormed hwf hdiv s
  | true =>
    rw [exec_divide_of_wellFormed hwf hdiv, divideInto_of_ne_zero s _ fun hzero => hnonzero ⟨hdiv, hzero⟩]

end WellFormed

/-! ## The word read (rules R31, R32) -/

theorem Memory.readWord_of_bytes {m : Memory} {addr : Word} {b0 b1 b2 b3 : Byte} (ha : addr.toNat % 4 = 0)
    (h0 : Memory.read m addr.toNat = some b0) (h1 : Memory.read m (addr.toNat + 1) = some b1)
    (h2 : Memory.read m (addr.toNat + 2) = some b2) (h3 : Memory.read m (addr.toNat + 3) = some b3) :
    Memory.readWord m addr = some (wordOfBytes b0 b1 b2 b3) := by
  simp [Memory.readWord, ha, h0, h1, h2, h3]

/-- Settles O29: the bytes read are those of the word, in the one way a word is four bytes. -/
theorem wordReadIsBigEndian : Obligations.WordReadIsBigEndian := by
  intro m addr w
  constructor
  · intro h
    obtain ⟨ha, b0, b1, b2, b3, h0, h1, h2, h3, hw⟩ := Memory.readWord_cases h
    obtain ⟨rfl, rfl, rfl, rfl⟩ := wordOfBytes_eq_iff.mp hw.symm
    exact ⟨ha, h0, h1, h2, h3⟩
  · rintro ⟨ha, h0, h1, h2, h3⟩
    rw [Memory.readWord_of_bytes ha h0 h1 h2 h3]
    exact congrArg some (wordOfBytes_byteOfWord w)

theorem Memory.readWord_eq_none {m : Memory} {addr : Word}
    (h : addr.toNat % 4 ≠ 0 ∨ ∃ k : Nat, k < 4 ∧ Memory.read m (addr.toNat + k) = none) :
    Memory.readWord m addr = none := by
  refine Option.eq_none_iff_forall_ne_some.mpr fun w hw => ?_
  obtain ⟨ha, b0, b1, b2, b3, h0, h1, h2, h3, -⟩ := Memory.readWord_cases hw
  rcases h with hmisaligned | ⟨k, hk, hnone⟩
  · exact hmisaligned ha
  · interval_cases k <;> simp_all

/-! ## What a step in a running state answers (rule R95) -/

section Running
variable {s : State} (hrun : s.status = .running)
include hrun

theorem step_of_fetch_none (hfetch : s.fetch = none) : step s = .fault .fetchNotAdmitted := by
  simp [step, hrun, hfetch]

variable {w : Word} (hfetch : s.fetch = some w)
include hfetch

theorem step_of_decode_refuse {reason : RefuseReason} (hdecode : decode w = .refuse reason) :
    step s = .refused (.noMeaning reason) := by
  simp [step, hrun, hfetch, hdecode]

theorem step_of_decode_instr {i : Instr} (hdecode : decode w = .instr i) : step s = exec i s := by
  simp [step, hrun, hfetch, hdecode]

end Running

/-- Settles O30: the four bytes are the word that the fetch answers. -/
theorem stepRunsTheDecodedInstruction : Obligations.StepRunsTheDecodedInstruction :=
  fun _ _ _ _ _ _ hrun ha h0 h1 h2 h3 hdecode =>
    step_of_decode_instr hrun (Memory.readWord_of_bytes ha h0 h1 h2 h3) hdecode

/-- Settles O31: the word read is not admitted, and a fault leaves the run where it is. -/
theorem fetchNotAdmittedIsStuck : Obligations.FetchNotAdmittedIsStuck := by
  intro s hrun hbad
  have hstep := step_of_fetch_none hrun (Memory.readWord_eq_none hbad)
  exact ⟨hstep, State.runFor_of_runStep_eq (State.runStep_fault hstep)⟩

/-- Settles O32: the first step of the run sets the mark, and a marked state is a stopped one. -/
theorem refusedWordMarksTheRun : Obligations.RefusedWordMarksTheRun := by
  intro s w reason hrun hfetch hdecode
  have hstep := step_of_decode_refuse hrun hfetch hdecode
  refine ⟨hstep, fun n => ?_⟩
  have hstopped : (s.markRefused reason).status ≠ .running := by simp
  rw [State.runFor_succ, State.runStep_refused hstep,
    State.runFor_of_runStep_eq (State.runStep_of_stopped hstopped), State.markRefused]

/-- Settles O35: fetch, decoder and zero-divisor test are asked in turn; what passes them all completes. -/
theorem stepFollowsTheOrderOfEvents : Obligations.StepFollowsTheOrderOfEvents := by
  intro s hrun
  cases hfetch : s.fetch with
  | none => exact .inl ⟨rfl, step_of_fetch_none hrun hfetch⟩
  | some w =>
    refine .inr ⟨w, rfl, ?_⟩
    cases hdecode : decode w with
    | illegal => exact absurd hdecode (decode_ne_illegal w)
    | refuse reason => exact .inl ⟨reason, rfl, step_of_decode_refuse hrun hfetch hdecode⟩
    | instr i =>
      obtain ⟨hwf, -⟩ := decode_eq_instr_iff.mp hdecode
      refine .inr ⟨i, rfl, ?_⟩
      rw [step_of_decode_instr hrun hfetch hdecode, s.pairValue_eq_readPair]
      split_ifs with hzero
      · exact exec_of_zeroDivisor hwf hzero
      · exact ⟨_, exec_of_not_zeroDivisor hwf hzero, (s.retire_status ..).trans hrun, s.retire_pc ..,
          s.retire_npc ..⟩

/-! ## The loader (notes/assumptions/5.md) -/

theorem tableWord_toNat (w : Word) : tableWord 32 w.toNat = w := by
  rw [tableWord, Nat.mod_eq_of_lt w.isLt, BitVec.ofNat_toNat, BitVec.setWidth_eq]

theorem State.fetch_withFetchWord (s : State) (w : Word) (hmem : s.mem.wf) (ha : s.pc.toNat % 4 = 0) :
    (s.withFetchWord 32 w.toNat).fetch = some w := by
  rw [State.fetch, State.withFetchWord, tableWord_toNat]
  exact Memory.readWord_loadWord s.mem s.pc w hmem ha

/-- Settles O42: the fetch answers the word placed, which decodes to its instruction. -/
theorem placedWordIsRunNext : Obligations.PlacedWordIsRunNext :=
  fun s i hmem ha hwf =>
    step_of_decode_instr rfl (s.fetch_withFetchWord (encode i) hmem ha) (decode_encode_of_wellFormed hwf)

/-! ## The invariant of a run (rules R19, R20, R90) -/

theorem toNat_add_four_mod_four {w : Word} (h : w.toNat % 4 = 0) : (w + 4#32).toNat % 4 = 0 := by
  bv_omega

theorem State.LaunchedAt.inv {s : State} {entry : Word} (h : s.LaunchedAt entry) : s.Inv := by
  obtain ⟨ha, hpc, hnpc, hrun, hmem⟩ := h
  subst hpc
  refine ⟨ha, ?_, hnpc, hmem, ?_⟩
  · rw [hnpc]
    exact toNat_add_four_mod_four ha
  · rw [hrun]
    rfl

/-- What a step does to the run: it stops it with division_by_zero, or completes an instruction. -/
theorem step_next_traps_or_retires {s t : State} (h : step s = .next t) :
    s.status = .running ∧
      (t = s.raiseTrap 0x2A#8 ∨ ∃ (rd : RegNum) (v : DWord) (c : Icc), t = s.retire rd v c) := by
  obtain ⟨hrun, w, i, -, -, hexec⟩ := step_next_cases h
  refine ⟨hrun, ?_⟩
  obtain ⟨-, ⟨-, -, htrap⟩ | ⟨-, v, c, hretire⟩⟩ := exec_next_cases hexec
  · exact .inl htrap
  · exact .inr ⟨i.rd, v, c, hretire⟩

/-- A step that leaves the run running leaves it as if launched at the next word. -/
theorem State.LaunchedAt.step_next {s t : State} {entry : Word} (hs : s.LaunchedAt entry) (h : step s = .next t)
    (ht : t.status = .running) : t.LaunchedAt (entry + 4#32) := by
  obtain ⟨ha, rfl, hnpc, hrun, hmem⟩ := hs
  obtain ⟨-, rfl | ⟨rd, v, c, rfl⟩⟩ := step_next_traps_or_retires h
  · cases ht
  · exact ⟨toNat_add_four_mod_four ha, (s.retire_pc ..).trans hnpc, by rw [State.retire_npc, hnpc], ht,
      (s.retire_mem ..).symm ▸ hmem⟩

/-- A running state with the invariant is one from which a run can be launched. -/
theorem State.Inv.launchedAt {s : State} (h : s.Inv) (hrun : s.status = .running) : s.LaunchedAt s.pc := by
  obtain ⟨hpc, -, hnpc, hmem, -⟩ := h
  exact ⟨hpc, rfl, hnpc, hrun, hmem⟩

theorem State.Inv.raiseTrap {s : State} (h : s.Inv) : (s.raiseTrap 0x2A#8).Inv := by
  obtain ⟨hpc, hnpc, hseq, hmem, -⟩ := h
  exact ⟨hpc, hnpc, hseq, hmem, rfl⟩

/-- Settles O37: a step raises division_by_zero, which the invariant allows, or leaves the run as if launched at the
next word. -/
theorem everyStepKeepsTheInvariant : Obligations.EveryStepKeepsTheInvariant := by
  intro s t hs h
  obtain ⟨hrun, rfl | ⟨rd, v, c, rfl⟩⟩ := step_next_traps_or_retires h
  · exact hs.raiseTrap
  · exact ((hs.launchedAt hrun).step_next h ((s.retire_status ..).trans hrun)).inv

/-- Settles O39: each field of the state after reset is a closed value. -/
theorem resetIsALaunchState : Obligations.ResetIsALaunchState :=
  ⟨⟨rfl, rfl, rfl, rfl, List.Pairwise.nil, nofun⟩, State.readReg_zero _, rfl, Memory.read_nil⟩

/-- Settles O38: a launch state has the invariant. -/
theorem resetHasTheInvariant : Obligations.ResetHasTheInvariant := resetIsALaunchState.1.inv

/-! ## The run from a launch state (rules R19, R112) -/

theorem run_succ_next {M : Host.Core} {k : Nat} {s t : M.State} (h : M.run (k + 1) s = .next t) :
    ∃ s' : M.State, M.step s = .next s' ∧ M.run k s' = .next t := by
  unfold Host.Core.run at h
  split at h
  · exact ⟨_, ‹_›, h⟩
  · cases h
  · cases h

/-- No run leads from a stopped state to a running one: it has no step. -/
theorem status_running_of_run {k : Nat} {s t : State} (h : Host.Core.run Sys2Proof.core k s = .next t)
    (ht : t.status = .running) : s.status = .running := by
  cases k with
  | zero => cases h; exact ht
  | succ k =>
    obtain ⟨s', hstep, -⟩ := run_succ_next h
    exact (step_next_cases hstep).1

/-- The run is as if launched k words further on, by induction on the steps still to take. -/
theorem State.LaunchedAt.run_next {k : Nat} {s t : State} {entry : Word} (hs : s.LaunchedAt entry)
    (h : Host.Core.run Sys2Proof.core k s = .next t) (ht : t.status = .running) :
    t.LaunchedAt (entry + BitVec.ofNat 32 (4 * k)) := by
  induction k generalizing s entry with
  | zero =>
    cases h
    simpa using hs
  | succ k ih =>
    obtain ⟨s', hstep, hrest⟩ := run_succ_next h
    have hnext := ih (hs.step_next hstep (status_running_of_run hrest ht)) hrest
    rwa [BitVec.add_assoc, ← BitVec.ofNat_add, Nat.add_comm, ← Nat.mul_succ] at hnext

/-- Settles O41: the state reached is a launch state k words after the entry. -/
theorem runIsStraightLine : Obligations.RunIsStraightLine := by
  intro s t entry k hs h ht
  have hinv := (hs.run_next h ht).inv
  obtain ⟨-, hpc, hnpc, -, -⟩ := hs.run_next h ht
  refine ⟨⟨ht, hpc⟩, ?_, hinv⟩
  rw [hnpc, BitVec.add_assoc, ← BitVec.ofNat_add, ← Nat.mul_succ]

end Sys2Proof.Machine

/-! PROOFS. The laws of the arithmetic: the multiply family (R70, R75) and the divide family (R85), and what the
meanings make of them: UMULD and SMULD are the same instruction, and UDIVD undoes UMULD. -/

namespace Sys2Proof.Machine

/-! ## The products (rules R70, R75) -/

theorem umul64_eq_mul (a b : DWord) : umul64 a b = a * b := by
  rw [umul64_eq_ofNat, BitVec.ofNat_mul]
  simp

theorem smul64_eq_mul (a b : DWord) : smul64 a b = a * b := by
  rw [smul64_eq_ofInt, BitVec.ofInt_mul, BitVec.ofInt_toInt, BitVec.ofInt_toInt]

/-- The signed and the unsigned product agree modulo 2^64. -/
theorem umul64_eq_smul64 (a b : DWord) : umul64 a b = smul64 a b := by
  rw [umul64_eq_mul, smul64_eq_mul]

/-- Settles O18: the two meanings differ in the product alone. -/
theorem signedAndUnsignedMultiplyAgree : Obligations.SignedAndUnsignedMultiplyAgree := by
  intro rd rs1 rs2 s
  simp only [exec, execUmuld, execSmuld, umul64_eq_smul64]

theorem toInt_smul64 {a b : DWord} (h : smulOverflows a b = false) :
    (smul64 a b).toInt = a.toInt * b.toInt := by
  by_contra hne
  have hover := (smulOverflows_iff a b).mpr ((outside_int64_iff_toInt_ofInt_ne _).mpr hne)
  rw [h] at hover
  cases hover

theorem negFlag_eq_toInt_neg (v : DWord) : negFlag v = decide (v.toInt < 0) := by
  rw [← BitVec.msb_eq_toInt, BitVec.msb_eq_getLsbD_last, negFlag]

section NoOverflow
variable {a b : DWord} (h : smulOverflows a b = false)
include h

theorem negFlag_smul64_of_neg (hneg : a.toInt * b.toInt < 0) : negFlag (smul64 a b) = true := by
  rw [negFlag_eq_toInt_neg, toInt_smul64 h, decide_eq_true hneg]

theorem negFlag_smul64_of_pos (hpos : 0 < a.toInt * b.toInt) : negFlag (smul64 a b) = false := by
  rw [negFlag_eq_toInt_neg, toInt_smul64 h, decide_eq_false hpos.asymm]

end NoOverflow

theorem smul64_of_factor_zero {a b : DWord} (h : a = 0#64 ∨ b = 0#64) :
    smul64 a b = 0#64 ∧ smulOverflows a b = false := by
  rcases h with rfl | rfl <;> simp [smul64_eq_mul, smulOverflows, signedProduct]

theorem eq_minSigned_of_toInt {a : DWord} (h : a.toInt = -2 ^ 63) : a = 0x8000000000000000#64 :=
  BitVec.eq_of_toInt_eq h

theorem eq_allOnes_of_toInt {b : DWord} (h : b.toInt = -1) : b = 0xFFFFFFFFFFFFFFFF#64 :=
  BitVec.eq_of_toInt_eq h

/-- Settles O19: both products are the ring's product of 64-bit vectors, and without overflow the signed one has the
sign of the exact product. -/
theorem multiplyLaws : Obligations.MultiplyLaws := by
  refine ⟨umul64_eq_smul64, ?comm, ?units, ?modulo, ?signs, ?zero, ?overflow, ?z⟩
  case comm =>
    intro a b
    rw [umul64_eq_mul, umul64_eq_mul, BitVec.mul_comm]
  case units =>
    intro a
    have hnegOne : 0xFFFFFFFFFFFFFFFF#64 = -1#64 := rfl
    rw [umul64_eq_mul, umul64_eq_mul, umul64_eq_mul, hnegOne, BitVec.mul_neg]
    simp
  case modulo =>
    intro a b
    rw [umul64_eq_mul, BitVec.toNat_mul]
  case signs =>
    intro a b h
    exact ⟨fun ha hb => negFlag_smul64_of_pos h (mul_pos ha hb),
      fun ha hb => negFlag_smul64_of_neg h (mul_neg_of_pos_of_neg ha hb),
      fun ha hb => negFlag_smul64_of_neg h (mul_neg_of_neg_of_pos ha hb),
      fun ha hb => negFlag_smul64_of_pos h (mul_pos_of_neg_of_neg ha hb)⟩
  case zero =>
    intro a b h
    obtain ⟨hproduct, hfits⟩ := smul64_of_factor_zero h
    rw [hproduct]
    exact ⟨by decide, by decide, hfits⟩
  case overflow =>
    intro a b ha hb
    rw [eq_minSigned_of_toInt ha, eq_allOnes_of_toInt hb]
    decide
  case z =>
    intro a b
    rw [umul64_eq_smul64]

/-! ## The quotients (rule R85) -/

theorem toNat_udiv64 (a b : DWord) : (udiv64 a b).toNat = a.toNat / b.toNat := by
  rw [udiv64_eq_udiv, BitVec.toNat_udiv]

theorem toNat_pos_of_ne_zero {b : DWord} (hb : b ≠ 0#64) : 0 < b.toNat :=
  Nat.pos_of_ne_zero fun h => hb (BitVec.eq_of_toNat_eq h)

/-- The remainder of a division rounded toward zero has the sign of the dividend. -/
theorem tmod_sign_cases (a b : Int) :
    a.tmod b = 0 ∨ (0 < a.tmod b ∧ 0 < a) ∨ (a.tmod b < 0 ∧ a < 0) := by
  have hsign := Int.sign_tmod a b
  split_ifs at hsign with hdvd
  · exact .inl (Int.sign_eq_zero_iff_zero.mp hsign)
  · rcases lt_trichotomy a 0 with ha | rfl | ha
    · rw [Int.sign_eq_neg_one_of_neg ha, Int.sign_eq_neg_one_iff_neg] at hsign
      exact .inr (.inr ⟨hsign, ha⟩)
    · exact absurd (dvd_zero b) hdvd
    · rw [Int.sign_eq_one_of_pos ha, Int.sign_eq_one_iff_pos] at hsign
      exact .inr (.inl ⟨hsign, ha⟩)

theorem abs_tmod_lt_abs (a : Int) {b : Int} (hb : b ≠ 0) : |a.tmod b| < |b| := by
  rw [← Int.natCast_natAbs, ← Int.natCast_natAbs, Int.natAbs_tmod]
  exact_mod_cast Nat.mod_lt _ (Int.natAbs_pos.mpr hb)

theorem sign_tdiv_of_abs_le {a b : Int} (h : |b| ≤ |a|) : (a.tdiv b).sign = a.sign * b.sign := by
  rw [Int.sign_tdiv, if_neg]
  simpa only [not_lt, ← Int.natCast_natAbs, Nat.cast_le] using h

theorem tdiv_eq_zero_of_abs_lt {a b : Int} (h : |a| < |b|) : a.tdiv b = 0 := by
  rw [← Int.sign_eq_zero_iff_zero, Int.sign_tdiv, if_pos]
  simpa only [← Int.natCast_natAbs, Nat.cast_lt] using h

theorem not_overflow_of_sdivOverflows_false {a b : DWord} (h : sdivOverflows a b = false) :
    ¬(a.toInt = -2 ^ 63 ∧ b.toInt = -1) := by
  rw [← sdivOverflows_iff, h]
  exact Bool.false_ne_true

section SignedQuotient
variable {a b : DWord} (hfits : sdivOverflows a b = false)
include hfits

/-- The signed Euclidean equation. -/
theorem sdiv64_remainder (hb : b ≠ 0#64) :
    ∃ r : Int, a.toInt = (sdiv64 a b).toInt * b.toInt + r ∧ |r| < |b.toInt| ∧
      (r = 0 ∨ (0 < r ∧ 0 < a.toInt) ∨ (r < 0 ∧ a.toInt < 0)) := by
  refine ⟨a.toInt.tmod b.toInt, ?_, abs_tmod_lt_abs _ (mt (toInt_eq_zero_iff b).mp hb), tmod_sign_cases _ _⟩
  rw [toInt_sdiv64 (not_overflow_of_sdivOverflows_false hfits), Int.mul_comm, Int.mul_tdiv_add_tmod]

theorem sdiv64_eq_zero_of_abs_lt (h : |a.toInt| < |b.toInt|) : sdiv64 a b = 0#64 := by
  rw [← toInt_eq_zero_iff, toInt_sdiv64 (not_overflow_of_sdivOverflows_false hfits), tdiv_eq_zero_of_abs_lt h]

theorem sign_toInt_sdiv64 (h : |b.toInt| ≤ |a.toInt|) :
    (sdiv64 a b).toInt.sign = a.toInt.sign * b.toInt.sign := by
  rw [toInt_sdiv64 (not_overflow_of_sdivOverflows_false hfits), sign_tdiv_of_abs_le h]

theorem sdiv64_pos (h : |b.toInt| ≤ |a.toInt|) (hsign : a.toInt.sign * b.toInt.sign = 1) :
    0 < (sdiv64 a b).toInt := by
  rw [← Int.sign_eq_one_iff_pos, sign_toInt_sdiv64 hfits h, hsign]

theorem sdiv64_neg (h : |b.toInt| ≤ |a.toInt|) (hsign : a.toInt.sign * b.toInt.sign = -1) :
    (sdiv64 a b).toInt < 0 := by
  rw [← Int.sign_eq_neg_one_iff_neg, sign_toInt_sdiv64 hfits h, hsign]

/-- The sign table of a quotient that is not zero. -/
theorem sdiv64_signs (h : |b.toInt| ≤ |a.toInt|) :
    (0 < a.toInt → 0 < b.toInt → 0 < (sdiv64 a b).toInt) ∧
    (0 < a.toInt → b.toInt < 0 → (sdiv64 a b).toInt < 0) ∧
    (a.toInt < 0 → 0 < b.toInt → (sdiv64 a b).toInt < 0) ∧
    (a.toInt < 0 → b.toInt < 0 → 0 < (sdiv64 a b).toInt) :=
  ⟨fun ha hb => sdiv64_pos hfits h (by rw [Int.sign_eq_one_of_pos ha, Int.sign_eq_one_of_pos hb]; rfl),
    fun ha hb => sdiv64_neg hfits h (by rw [Int.sign_eq_one_of_pos ha, Int.sign_eq_neg_one_of_neg hb]; rfl),
    fun ha hb => sdiv64_neg hfits h (by rw [Int.sign_eq_neg_one_of_neg ha, Int.sign_eq_one_of_pos hb]; rfl),
    fun ha hb => sdiv64_pos hfits h (by rw [Int.sign_eq_neg_one_of_neg ha, Int.sign_eq_neg_one_of_neg hb]; rfl)⟩

end SignedQuotient

theorem udiv64_eq_sdiv64_of_nonneg {a b : DWord} (ha : a.getLsbD 63 = false) (hb : b.getLsbD 63 = false) :
    udiv64 a b = sdiv64 a b := by
  have hamsb : a.msb = false := ha
  have hbmsb : b.msb = false := hb
  rw [udiv64_eq_udiv, sdiv64_eq_sdiv, BitVec.sdiv_eq, hamsb, hbmsb]
  rfl

/-- The overflow is at one pair of operands alone. -/
theorem sdivOverflows_iff_operands (a b : DWord) :
    sdivOverflows a b = true ↔ a = 0x8000000000000000#64 ∧ b = 0xFFFFFFFFFFFFFFFF#64 := by
  rw [sdivOverflows_iff]
  constructor
  · rintro ⟨ha, hb⟩
    exact ⟨eq_minSigned_of_toInt ha, eq_allOnes_of_toInt hb⟩
  · rintro ⟨rfl, rfl⟩
    exact ⟨rfl, rfl⟩

/-- Settles O25: the laws of the exact quotients, which truncation loses in the overflow case alone. -/
theorem divideLaws : Obligations.DivideLaws := by
  refine ⟨?unsigned, fun a b hb hfits => ⟨sdiv64_remainder hfits hb, sdiv64_eq_zero_of_abs_lt hfits,
    sdiv64_signs hfits⟩, ?zero, fun a b ha hb _ => udiv64_eq_sdiv64_of_nonneg ha hb, sdivOverflows_iff_operands⟩
  case unsigned =>
    intro a b hb
    refine ⟨a.toNat % b.toNat, ?_, Nat.mod_lt _ (toNat_pos_of_ne_zero hb)⟩
    rw [toNat_udiv64, Nat.div_add_mod']
  case zero =>
    intro b _
    rw [udiv64_eq_udiv, sdiv64_eq_sdiv]
    exact ⟨BitVec.zero_udiv, BitVec.zero_sdiv⟩

/-! ## UDIVD after UMULD (rule R85, law 7) -/

theorem udiv64_umul64_cancel {a b : DWord} (hb : b ≠ 0#64) (hfits : a.toNat * b.toNat < 2 ^ 64) :
    udiv64 (umul64 a b) b = a := by
  apply BitVec.eq_of_toNat_eq
  rw [toNat_udiv64, umul64_eq_mul, BitVec.toNat_mul, Nat.mod_eq_of_lt hfits,
    Nat.mul_div_cancel _ (toNat_pos_of_ne_zero hb)]

/-- Two pairs that are not the same have no register in common. -/
theorem evenReg_disjoint {m n : RegNum} (hm : evenReg m = true) (hn : evenReg n = true) (h : n ≠ m) :
    n ≠ m + 1#5 ∧ n + 1#5 ≠ m ∧ n + 1#5 ≠ m + 1#5 := by
  revert m n; decide

theorem State.readPair_writePair_other (s : State) {m n : RegNum} (v : DWord) (hm : evenReg m = true)
    (hn : evenReg n = true) (h : n ≠ m) : (s.writePair m v).readPair n = s.readPair n := by
  obtain ⟨hodd, hsucc, hsuccodd⟩ := evenReg_disjoint hm hn h
  rw [State.readPair_eq, State.readPair_eq, s.readReg_writePair_other v hm h hodd,
    s.readReg_writePair_other v hm hsucc hsuccodd]

theorem State.retire_readPair (s : State) (rd : RegNum) (v : DWord) (c : Icc) (n : RegNum) :
    (s.retire rd v c).readPair n = (s.writePair rd v).readPair n := rfl

/-- Settles O26: the state after UMULD holds the product, and the second factor as before; the quotient of the two is
the first factor. -/
theorem udivdUndoesUmuld : Obligations.UdivdUndoesUmuld := by
  intro rd rs1 rs2 rq s hd h1 h2 hq hrd hrq hne hb hfits
  simp only [State.pairValue_eq_readPair] at hb hfits ⊢
  have hmul := exec_umuld_even s hd h1 h2
  generalize ht : s.retire rd (umul64 (s.readPair rs1) (s.readPair rs2)) s.icc = t at hmul
  have hproduct : t.readPair rd = umul64 (s.readPair rs1) (s.readPair rs2) := by
    rw [← ht, State.retire_readPair, State.readPair_writePair s _ hd hrd]
  have hfactor : t.readPair rs2 = s.readPair rs2 := by
    rw [← ht, State.retire_readPair, State.readPair_writePair_other s _ hd h2 hne.symm]
  have hdiv := exec_udivd_even t hq hd h2
  rw [hproduct, hfactor, divideInto_of_ne_zero t _ hb, udiv64_umul64_cancel hb hfits] at hdiv
  refine ⟨t, _, hmul, hdiv, ?_⟩
  rw [State.retire_readPair, State.readPair_writePair t _ hq hrq]

end Sys2Proof.Machine

/-! PROOFS. The statements that compare two runs of an instruction: it reads its two source pairs alone (R17), and the
draws reach nothing but what the spec leaves open (R22, R83). -/

namespace Sys2Proof.Machine

/-! ## What the result and the condition codes depend on (rules R17, R22, R83) -/

/-- At the value of rule R4, a flag that the source does not name is a draw. -/
theorem unnamedFlag_params (draw old v8 : Bool) : unnamedFlag params.iccUnnamed draw old v8 = draw := rfl

/-- At the value of rule R4, V of SMULDCC is the signed overflow. -/
theorem smuldccV_params (draw overflow : Bool) : smuldccV params.smuldccV draw overflow = overflow := rfl

/-- An instruction that leaves icc alone completes with the condition codes of the state before. -/
theorem iccOf_of_not_setsIcc {i : Instr} (h : i.setsIcc = false) (s : State) (a b : DWord) :
    iccOf i s a b = s.icc := by
  cases i with
  | umuld | smuld | udivd | sdivd => rfl
  | umuldcc | smuldcc | udivdcc | sdivdcc => cases h

theorem iccOf_z {i : Instr} (h : i.setsIcc = true) (s : State) (a b : DWord) :
    (iccOf i s a b).z = zeroFlag (resultOf i s a b) := by
  cases i with
  | umuld | smuld | udivd | sdivd => cases h
  | umuldcc | smuldcc | udivdcc | sdivdcc => rfl

section TwoStates
variable {i : Instr} (s₁ s₂ : State) (a b : DWord)

/-- V of SMULDCC, UDIVDCC and SDIVDCC is fixed by the operands. -/
theorem iccOf_v_congr (h : op3Of i = 0x1B#6 ∨ op3Of i = 0x1E#6 ∨ op3Of i = 0x1F#6) :
    (iccOf i s₁ a b).v = (iccOf i s₂ a b).v := by
  cases i with
  | umuld | umuldcc | smuld | udivd | sdivd => simp [op3Of] at h
  | smuldcc | udivdcc | sdivdcc => rfl

/-- N of SMULDCC is fixed by the operands. -/
theorem iccOf_n_congr_smuldcc (h : op3Of i = 0x1B#6) : (iccOf i s₁ a b).n = (iccOf i s₂ a b).n := by
  cases i with
  | umuld | umuldcc | smuld | udivd | udivdcc | sdivd | sdivdcc => simp [op3Of] at h
  | smuldcc => rfl

theorem iccOf_n_sdivdcc (h : op3Of i = 0x1F#6) (s : State) (a b : DWord) :
    (iccOf i s a b).n = negFlag (resultOf i s a b) := by
  cases i with
  | umuld | umuldcc | smuld | smuldcc | udivd | udivdcc | sdivd => simp [op3Of] at h
  | sdivdcc => rfl

/-- Outside the overflow of a signed division the result is fixed by the operands. -/
theorem resultOf_congr_of_fits
    (h : ¬((op3Of i = 0x0F#6 ∨ op3Of i = 0x1F#6) ∧ a.toInt = -2 ^ 63 ∧ b.toInt = -1)) :
    resultOf i s₁ a b = resultOf i s₂ a b := by
  cases i with
  | umuld | umuldcc | smuld | smuldcc | udivd | udivdcc => rfl
  | sdivd =>
    have hfits := not_and.mp h (.inl rfl)
    exact (sdivQuotient_of_fits hfits s₁).trans (sdivQuotient_of_fits hfits s₂).symm
  | sdivdcc =>
    have hfits := not_and.mp h (.inr rfl)
    exact (sdivQuotient_of_fits hfits s₁).trans (sdivQuotient_of_fits hfits s₂).symm

variable {s₁ s₂} (hdraws : s₁.draws = s₂.draws)
include hdraws

theorem sdivQuotient_congr : sdivQuotient s₁ a b = sdivQuotient s₂ a b := by
  rw [sdivQuotient, sdivQuotient, State.drawQuotient, State.drawQuotient, hdraws]

/-- With equal draws the result is fixed by the operands. -/
theorem resultOf_congr : resultOf i s₁ a b = resultOf i s₂ a b := by
  cases i with
  | umuld | umuldcc | smuld | smuldcc | udivd | udivdcc => rfl
  | sdivd | sdivdcc => exact sdivQuotient_congr a b hdraws

/-- With equal draws the condition codes that an instruction sets are fixed by the operands. -/
theorem iccOf_congr (h : i.setsIcc = true) : iccOf i s₁ a b = iccOf i s₂ a b := by
  cases i with
  | umuld | smuld | udivd | sdivd => cases h
  | umuldcc => simp [iccOf, iccUmuldcc, unnamedFlag_params, State.drawN, State.drawV, State.drawC, hdraws]
  | smuldcc => simp [iccOf, iccSmuldcc, unnamedFlag_params, smuldccV_params, State.drawC, hdraws]
  | udivdcc => simp [iccOf, iccUdivdcc, unnamedFlag_params, State.drawN, State.drawC, hdraws]
  | sdivdcc => simp [iccOf, iccSdivdcc, unnamedFlag_params, State.drawC, sdivQuotient_congr a b hdraws, hdraws]

end TwoStates

/-! ## Completion (rules R15, R17) -/

theorem completed_completedBy {i : Instr} (hwf : i.wellFormed = true) (s : State) :
    s.Completed (completedBy i s) i.rd (resultOf i s (s.readPair i.rs1) (s.readPair i.rs2)) :=
  s.completed_retire _ _ (i.wellFormed_iff.mp hwf).1

theorem completedBy_icc (i : Instr) (s : State) :
    (completedBy i s).icc = iccOf i s (s.readPair i.rs1) (s.readPair i.rs2) :=
  State.retire_icc ..

/-- A pair that holds a value is fixed by it, pair 0 too. -/
theorem State.HoldsPair.unique {t u : State} {rd : RegNum} {v : DWord} (ht : t.HoldsPair rd v)
    (hu : u.HoldsPair rd v) :
    t.readReg rd = u.readReg rd ∧ t.readReg (rd + 1#5) = u.readReg (rd + 1#5) := by
  obtain ⟨hteven, htodd, -⟩ := ht
  obtain ⟨hueven, huodd, -⟩ := hu
  refine ⟨?_, htodd.trans huodd.symm⟩
  by_cases hrd : rd = 0#5
  · rw [hrd, State.readReg_zero, State.readReg_zero]
  · exact (hteven hrd).trans (hueven hrd).symm

/-- Settles O27: with equal operands both states trap, or both complete with the same result. -/
theorem onlyTheSourcePairsAreRead : Obligations.OnlyTheSourcePairsAreRead := by
  intro i s₁ s₂ t₁ hwf hrun1 hrun2 hpair1 hpair2 hdraws hexec
  simp only [State.pairValue_eq_readPair] at hpair1 hpair2
  by_cases hzero : i.isDivide = true ∧ s₁.readPair i.rs2 = 0#64
  · rw [exec_of_zeroDivisor hwf hzero] at hexec
    cases hexec
    rw [hpair2] at hzero
    exact ⟨_, exec_of_zeroDivisor hwf hzero, rfl, nofun⟩
  · rw [exec_of_not_zeroDivisor hwf hzero] at hexec
    cases hexec
    rw [hpair2] at hzero
    obtain ⟨hholds1, hframe1, -⟩ := completed_completedBy hwf s₁
    obtain ⟨hholds2, hframe2, -⟩ := completed_completedBy hwf s₂
    rw [hpair1, hpair2, resultOf_congr _ _ hdraws] at hholds1
    obtain ⟨heven, hodd⟩ := hholds1.unique hholds2
    refine ⟨_, exec_of_not_zeroDivisor hwf hzero, ?status, fun _ => ⟨heven, hodd, ?sets, ?keeps, hframe1⟩⟩
    case status => rw [completedBy, completedBy, State.retire_status, State.retire_status, hrun1, hrun2]
    case sets =>
      intro hcc
      rw [completedBy_icc, completedBy_icc, hpair1, hpair2, iccOf_congr _ _ hdraws hcc]
    case keeps =>
      intro hcc
      rw [completedBy_icc, iccOf_of_not_setsIcc hcc]

/-! ## Another draw index (rules R6, R22, R83) -/

section OtherDraws
variable {i : Instr} (hwf : i.wellFormed = true) (s : State) (d : Nat)
include hwf

theorem completedBy_readReg_withDraws_other {r : RegNum} (hr : r ≠ i.rd) (hr' : r ≠ i.rd + 1#5) :
    (completedBy i { s with draws := d }).readReg r = (completedBy i s).readReg r := by
  obtain ⟨-, ⟨hother, -⟩, -⟩ := completed_completedBy hwf s
  obtain ⟨-, ⟨hotherd, -⟩, -⟩ := completed_completedBy hwf { s with draws := d }
  exact (hotherd r hr hr').trans (hother r hr hr').symm

theorem completedBy_readReg_withDraws
    (hresult : resultOf i { s with draws := d } (s.readPair i.rs1) (s.readPair i.rs2) =
      resultOf i s (s.readPair i.rs1) (s.readPair i.rs2)) (r : RegNum) :
    (completedBy i { s with draws := d }).readReg r = (completedBy i s).readReg r := by
  obtain ⟨hholds, -, -⟩ := completed_completedBy hwf s
  obtain ⟨hholdsd, -, -⟩ := completed_completedBy hwf { s with draws := d }
  rw [← hresult] at hholds
  obtain ⟨heven, hodd⟩ := hholdsd.unique hholds
  by_cases hr : r = i.rd
  · rw [hr, heven]
  by_cases hr' : r = i.rd + 1#5
  · rw [hr', hodd]
  · exact completedBy_readReg_withDraws_other hwf s d hr hr'

end OtherDraws

/-- Settles O28: the draws are read by the flags that the source does not name and by the quotient of the overflow case,
and by nothing else of the state that an instruction leaves. -/
theorem drawsReachOnlyWhatIsLeftOpen : Obligations.DrawsReachOnlyWhatIsLeftOpen := by
  intro i s t d hexec
  obtain ⟨hwf, -⟩ := exec_next_cases hexec
  by_cases hzero : i.isDivide = true ∧ s.readPair i.rs2 = 0#64
  · rw [exec_of_zeroDivisor hwf hzero] at hexec
    cases hexec
    exact ⟨_, exec_of_zeroDivisor hwf hzero, rfl, rfl, rfl, rfl, fun _ _ _ => rfl, fun _ => rfl, fun _ => rfl,
      fun _ => rfl, fun _ => ⟨fun _ => rfl, rfl, fun _ => rfl⟩⟩
  · rw [exec_of_not_zeroDivisor hwf hzero] at hexec
    cases hexec
    refine ⟨_, exec_of_not_zeroDivisor (s := { s with draws := d }) hwf hzero, ?pc, ?npc, ?status, ?mem,
      fun r => completedBy_readReg_withDraws_other hwf s d, ?icc, ?v, ?n, fun hfits => ?fits⟩
    case pc | npc | status | mem => simp [completedBy]
    all_goals simp only [completedBy_icc]
    case icc =>
      intro hcc
      rw [iccOf_of_not_setsIcc hcc, iccOf_of_not_setsIcc hcc]
    case v => exact iccOf_v_congr _ _ _ _
    case n => exact iccOf_n_congr_smuldcc _ _ _ _
    case fits =>
      have hresult := resultOf_congr_of_fits { s with draws := d } s _ _ hfits
      refine ⟨completedBy_readReg_withDraws hwf s d hresult, ?z, fun hop3 => ?n⟩
      case n => rw [iccOf_n_sdivdcc hop3, iccOf_n_sdivdcc hop3]; exact congrArg negFlag hresult
      case z =>
        cases hcc : i.setsIcc with
        | false => rw [iccOf_of_not_setsIcc hcc, iccOf_of_not_setsIcc hcc]
        | true => rw [iccOf_z hcc, iccOf_z hcc]; exact congrArg zeroFlag hresult

end Sys2Proof.Machine
